-- ==== Sys2Proof/Word.lean ====
section
/-! DEFINITION. The bit-vector types of the device and their plainest arithmetic (spec/00_scope.md R8, R9). -/

namespace Sys2Proof

/-- A byte: 8 bits (R8). -/
abbrev Byte := BitVec 8

/-- A word: an unsigned 32-bit integer (R7 `WORD_BITS`, R8). -/
abbrev Word := BitVec 32

/-- A 64-bit counter, the width of the length field (R7 `LENGTH_FIELD_BITS`). -/
abbrev DWord := BitVec 64

/-- A one-bit flag as a word: 0 or 1 (R87 writes flags into STATUS this way). -/
def Word.ofFlag (b : Bool) : Word := (BitVec.ofBool b).setWidth 32

end Sys2Proof
end

