-- ==== Sys2Proof/Config.lean ====
section
/-! DEFINITION. The parameters of the block (spec/00_scope.md R7): the fixed ones as numbers, the open one,
`LATENCY(cmd)`, as a constant with no body. -/

namespace Sys2Proof.Config

/-- `PAD_MARKER` (R7): the byte that follows the last message byte. -/
def padMarker : Byte := 0x80

/-- The largest value of `bitLen` (R15): 2^64 - 8, the bit length of a message of `MAX_MESSAGE_BYTES` bytes. -/
def maxBitLen : DWord := BitVec.ofNat 64 (2 ^ 64 - 8)

/-- `MAX_MESSAGE_BYTES` (R7). -/
def maxMessageBytes : Nat := 2 ^ 61 - 1

/-- `MAX_BLOCKS` (R7). -/
def maxBlocks : Nat := 2 ^ 55 + 1

/-- A free value: how far `LATENCY` of a command word exceeds 1 (R7, R30, decision D4: `LATENCY` is open).
No rule depends on it.  Log entry 3. -/
opaque latencyExtra : Word → Nat

/-- `LATENCY(cmd)`: the most clock cycles from the acceptance of a command word to `rsp_valid`, at least 1 (R7, R40). -/
def latency (w : Word) : Nat := latencyExtra w + 1

/-- A free value for each draw: whether the device raises `rsp_valid` at an edge before the last one that
`LATENCY` allows (R40: "between `1` and `LATENCY(cmd)` cycles later").  Log entry 3. -/
opaque respondsEarly : Nat → Bool

theorem latency_pos (w : Word) : 1 ≤ latency w := Nat.succ_le_succ (Nat.zero_le _)

end Sys2Proof.Config
end

