-- ==== Sys2Proof/Machine/State.lean ====
section
/-! DEFINITION. The state of the machine: the device record of spec/10_state.md R13, the port of spec/20_memory.md
R39 to R41, the inputs the host drives, and the reset state (spec/70_reset_and_hazards.md R109). -/

namespace Sys2Proof.Machine

/-- Response codes (R53).  Codes 6 to 15 are reserved and never produced (R53, I6), so the type omits them. -/
inductive RspCode where
  /-- 0, OK: accepted and executed. -/
  | ok
  /-- 1, E_ILLEGAL: the word is no legal encoding (R90). -/
  | eIllegal
  /-- 2, E_SEQ: the command is not allowed in the current state (R91). -/
  | eSeq
  /-- 3, E_LENOVF: the message would not fit the length field (R92). -/
  | eLenOvf
  /-- 4, E_HALTED: rejected because `err` ≠ 0 (R94). -/
  | eHalted
  /-- 5, E_INVARIANT: reserved, never produced (R93). -/
  | eInvariant
  deriving DecidableEq, Repr

/-- A response: a code and a 32-bit data word (R52). -/
structure Response where
  code : RspCode
  data : Word
  deriving DecidableEq, Repr

/-- The device state (R13): these fields and nothing else. -/
structure Device where
  /-- The block buffer (R14). -/
  buf : Vector Byte 64
  /-- Bits of message absorbed so far (R15). -/
  bitLen : DWord
  /-- Index of the block in `buf` or being assembled (R16). -/
  blkIdx : DWord
  /-- The message schedule (R17). -/
  W : Vector Word 64
  /-- Bytes of `buf` written for the current block, 0 to 64 (R18). -/
  fill : BitVec 7
  /-- `buf` holds a complete block not yet released (R19). -/
  rdy : Bool
  /-- `W` holds the schedule of the block in `buf` (R20). -/
  sv : Bool
  /-- The block in `buf` is the last block of the padded message (R21). -/
  last : Bool
  /-- FINAL has been accepted for this message (R22). -/
  fin : Bool
  /-- A length-only block is still to be built (R23). -/
  lpend : Bool
  /-- The last block has been released (R24). -/
  done : Bool
  /-- The sticky error code, 0 for none (R25). -/
  err : BitVec 4
  deriving DecidableEq, Repr

/-- The command in progress at the port, at most one (R41). -/
inductive Port where
  /-- No command is outstanding. -/
  | idle
  /-- A command has executed and `rsp_valid` is still 0; `waited` cycles have passed since its acceptance (R40). -/
  | busy (rsp : Response) (waited : Nat)
  /-- `rsp_valid` is 1 and the response is held until it is taken (R40). -/
  | offering (rsp : Response)
  deriving DecidableEq, Repr

/-- The port's inputs as one rising edge of `clk` samples them (R39). -/
structure Pins where
  /-- `rst`: synchronous reset, active high. -/
  rst : Bool
  /-- `cmd_valid`. -/
  cmdValid : Bool
  /-- `cmd_data[31:0]`. -/
  cmdData : Word
  /-- `rsp_ready`. -/
  rspReady : Bool
  deriving DecidableEq, Repr

/-- The state of the machine. -/
structure State where
  /-- The device record (R13). -/
  dev : Device
  /-- The command word sampled at the last acceptance (R40). -/
  cmd : Word
  /-- The command in progress (R41). -/
  port : Port
  /-- What the host drives at the coming edges, the next edge first.  The environment's, not the device's (R30, R42). -/
  pins : List Pins
  /-- The model's own counter: how many free timing values have been drawn (log entry 3). -/
  draws : Nat
  deriving DecidableEq, Repr

/-- Why the machine stops. -/
inductive Fault where
  /-- Raised by PUSHB and FINAL in a state with `fin` = `rdy` = 0 and `fill` above 63, where the rules would write a
  byte `buf[fill]` that does not exist (R14: `buf[0..63]`).  No run reaches such a state (R27).  Safe: log entry 6. -/
  | bufOverrun
  deriving DecidableEq, Repr

/-- Why an instruction has no meaning. -/
inductive Refusal where
  /-- Raised by exec for an instruction with no meaning yet.  No arm raises it: every command is modelled.  Safe. -/
  | notModelled (mnemonic : String)
  deriving DecidableEq, Repr

/-- What a command or a step answers. -/
abbrev Result := Host.Outcome State Fault Refusal

/-- The device after reset (R109).  R109 gives no contents of `buf` and `W`: zero is the model's choice
(DESIGN CHOICE, log entry 1). -/
def Device.reset : Device where
  buf := Vector.replicate 64 0
  bitLen := 0
  blkIdx := 0
  W := Vector.replicate 64 0
  fill := 0
  rdy := false
  sv := false
  last := false
  fin := false
  lpend := false
  done := false
  err := 0

/-- The machine after reset: the reset device, no command outstanding (R109, R110), and a host that drives nothing.
The word of the last command is 0 (DESIGN CHOICE, log entry 13) and no free value has been drawn. -/
def State.reset : State where
  dev := Device.reset
  cmd := 0
  port := .idle
  pins := []
  draws := 0

end Sys2Proof.Machine
end

