-- ==== Sys2Proof/Machine/Flags.lean ====
section
/-! DEFINITION. The control fields: the code of each response as `err` and `rsp_code` hold it (spec/30_encoding.md
R53), the STATUS word (spec/43_control.md R87), the phase (spec/10_state.md R26), and the state preconditions of the
commands (spec/60_exceptions.md R91). -/

namespace Sys2Proof.Machine

/-- The four bits of a response code (R53). -/
def RspCode.bits : RspCode → BitVec 4
  | .ok => 0
  | .eIllegal => 1
  | .eSeq => 2
  | .eLenOvf => 3
  | .eHalted => 4
  | .eInvariant => 5

/-- STATUS as RDSTAT returns it (R87); the reserved bits read 0. -/
def Device.status (d : Device) : Word :=
  (d.err.setWidth 32 <<< 16) ||| (d.fill.setWidth 32 <<< 8) ||| (Word.ofFlag d.done <<< 5) |||
    (Word.ofFlag d.lpend <<< 4) ||| (Word.ofFlag d.fin <<< 3) ||| (Word.ofFlag d.last <<< 2) |||
    (Word.ofFlag d.sv <<< 1) ||| Word.ofFlag d.rdy

/-- The phases of the device (R26). -/
inductive Phase where
  | absorb
  | pad
  | done
  | halted
  deriving DecidableEq, Repr

/-- The phase is a function of the flags (R26); HALTED overrides the other three. -/
def Device.phase (d : Device) : Phase :=
  if d.err ≠ 0 then .halted else if d.done then .done else if d.fin then .pad else .absorb

/-- The precondition of PUSHB and FINAL: `fin` = 0 and `rdy` = 0 (R91). -/
def Device.canAbsorb (d : Device) : Bool := !d.fin && !d.rdy

/-- The precondition of EXPAND, NEXT and RDBW: `rdy` = 1 (R91). -/
def Device.presenting (d : Device) : Bool := d.rdy

/-- The precondition of RDW: `sv` = 1 (R91). -/
def Device.scheduled (d : Device) : Bool := d.sv

end Sys2Proof.Machine
end

