-- ==== Sys2Proof/Syntax.lean ====
section
/-! DEFINITION. The nine commands (spec/30_encoding.md R55), one constructor per row of the opcode table, and
the lines of the assembler (R63). -/

namespace Sys2Proof

/-- What RDCNT's selector names (R58): a half of `bitLen` or of `blkIdx`. -/
inductive CounterHalf where
  /-- `sel` = 0: `bitLen[31:0]`. -/
  | bitLenLow
  /-- `sel` = 1: `bitLen[63:32]`. -/
  | bitLenHigh
  /-- `sel` = 2: `blkIdx[31:0]`. -/
  | blkIdxLow
  /-- `sel` = 3: `blkIdx[63:32]`. -/
  | blkIdxHigh
  deriving DecidableEq, Repr

/-- A legal command (R55).  Each operand type holds exactly the values its field can hold (R56, R57, R58), so
every `Instr` is well formed; the range check of a written operand is the assembler's (`AsmLine.wellFormed`). -/
inductive Instr where
  /-- INIT: start a new message and clear errors (R85). -/
  | init
  /-- PUSHB: append one message byte (R67). -/
  | pushb (b : Byte)
  /-- FINAL: close the message and pad (R68). -/
  | final
  /-- EXPAND: compute the schedule of the presented block (R81). -/
  | expand
  /-- NEXT: release the block in `buf` (R69). -/
  | next
  /-- RDBW: read block word `i` (R74). -/
  | rdbw (i : Fin 16)
  /-- RDW: read schedule word `t` (R82). -/
  | rdw (t : Fin 64)
  /-- RDCNT: read half of a counter (R88). -/
  | rdcnt (sel : CounterHalf)
  /-- RDSTAT: read STATUS (R86). -/
  | rdstat
  deriving DecidableEq, Repr

/-- A line of a command program as it is written (R63), operands still unchecked numbers.
`pushs` and `rdall` are the two pseudo-commands. -/
inductive AsmLine where
  | init
  | pushb (b : Nat)
  | final
  | expand
  | next
  | rdbw (i : Nat)
  | rdw (t : Nat)
  | rdcnt (sel : Nat)
  | rdstat
  | pushs (text : List Byte)
  | rdall
  deriving DecidableEq, Repr

end Sys2Proof
end

