-- ==== Sys2Proof/Machine/Operands.lean ====
section
/-! DEFINITION. What the operands select, and the big-endian conversions (spec/00_scope.md R10, spec/41_block_parser.md
R73, spec/30_encoding.md R57 and R58). -/

namespace Sys2Proof.Machine

/-- `BE32` (R10): `b0` is the most significant byte. -/
def be32 (b0 b1 b2 b3 : Byte) : Word := b0 ++ b1 ++ b2 ++ b3

/-- Byte `j` of `BE64bytes(v)` (R10), most significant first. -/
def be64Byte (v : DWord) (j : Nat) : Byte := v.extractLsb' (56 - 8 * j) 8

/-- `blockWord(s, i)` (R73): word `i` of a block, from its bytes 4i to 4i + 3. -/
def blockWord (buf : Vector Byte 64) (i : Fin 16) : Word :=
  be32 buf[4 * i.val] buf[4 * i.val + 1] buf[4 * i.val + 2] buf[4 * i.val + 3]

/-- The WordArray16 of a block (R73). -/
def blockWords (buf : Vector Byte 64) : Vector Word 16 := Vector.ofFn (blockWord buf)

/-- Schedule word `t` (R57, R82). -/
def Device.scheduleWord (d : Device) (t : Fin 64) : Word := d.W[t.val]

/-- The half of a counter that a selector names (R58, R88). -/
def Device.counterHalf (d : Device) : CounterHalf → Word
  | .bitLenLow => d.bitLen.extractLsb' 0 32
  | .bitLenHigh => d.bitLen.extractLsb' 32 32
  | .blkIdxLow => d.blkIdx.extractLsb' 0 32
  | .blkIdxHigh => d.blkIdx.extractLsb' 32 32

end Sys2Proof.Machine
end

