-- ==== Sys2Proof/Machine/Ops.lean ====
section
/-! DEFINITION. The operations the command rules share: responding (spec/00_scope.md R11), rejecting a command (the
device's whole trap entry, spec/60_exceptions.md R96), the way out of the halted state (R99), the order of the checks
(R98), and the blocks the Padder writes (spec/40_padder.md R68 and R69). -/

namespace Sys2Proof.Machine

/-- `respond(code, data)` (R11): the command ends and its response waits at the port (R40). -/
def State.respond (s : State) (code : RspCode) (data : Word) : State :=
  { s with port := .busy ⟨code, data⟩ 0 }

/-- Where a rejection is recorded (R96): in `err`, if it holds no code yet, and never for E_HALTED. -/
def Device.recordError (d : Device) (code : RspCode) : Device :=
  if code ≠ .eHalted ∧ d.err = 0 then { d with err := code.bits } else d

/-- `raise E(code)` (R96): the device's whole trap entry.  No other field changes and the data word is 0. -/
def State.raise (s : State) (code : RspCode) : State :=
  { s with dev := s.dev.recordError code }.respond code 0

/-- A command rejected with a code. -/
def reject (code : RspCode) (s : State) : Result := .next (s.raise code)

/-- A command accepted: the device becomes `d`, and the response is OK with a data word. -/
def accept (d : Device) (data : Word) (s : State) : Result := .next ({ s with dev := d }.respond .ok data)

/-- Checks 2 and 3 of R98, in that order: `err` = 0, else E_HALTED; the state precondition, else E_SEQ. -/
def guarded (allowed : Bool) (s : State) (run : Result) : Result :=
  if s.dev.err ≠ 0 then reject .eHalted s else if allowed then run else reject .eSeq s

/-- The way out of the halted state, and the start of a message (R85, R99): every field but `buf` and `W` is cleared. -/
def Device.clearMessage (d : Device) : Device :=
  { d with
    rdy := false, sv := false, last := false, fin := false, lpend := false, done := false
    fill := 0, bitLen := 0, blkIdx := 0, err := 0 }

/-- The block FINAL leaves (R68, R70): bytes 0 to r-1 of the message, the marker at `r`, zeros, and the length in
bytes 56 to 63 when `r` leaves room for it. -/
@[irreducible] def finalBlock (buf : Vector Byte 64) (r : Nat) (len : DWord) : Vector Byte 64 :=
  Vector.ofFn fun k : Fin 64 =>
    if k.val < r then buf[k.val]
    else if k.val = r then Config.padMarker
    else if r ≤ 55 ∧ 56 ≤ k.val then be64Byte len (k.val - 56)
    else 0

/-- The length-only block NEXT builds (R69): 56 zero bytes, then the length. -/
@[irreducible] def lengthBlock (len : DWord) : Vector Byte 64 :=
  Vector.ofFn fun k : Fin 64 => if 56 ≤ k.val then be64Byte len (k.val - 56) else 0

end Sys2Proof.Machine
end

