-- ==== Sys2Proof/Machine/BlockParser.lean ====
section
/-! DEFINITION. The BlockParser's command: RDBW (spec/41_block_parser.md R74). -/

namespace Sys2Proof.Machine

/-- RDBW (R74): a pure read of a word of the presented block. -/
def execRdbw (i : Fin 16) (s : State) : Result :=
  guarded s.dev.presenting s <| accept s.dev (blockWord s.dev.buf i) s

end Sys2Proof.Machine
end

