-- ==== Sys2Proof/Machine/Control.lean ====
section
/-! DEFINITION. The control commands: INIT, RDSTAT and RDCNT (spec/43_control.md R85, R86, R88). -/

namespace Sys2Proof.Machine

/-- INIT (R85): no precondition, executed in the halted state too. -/
def execInit (s : State) : Result := accept s.dev.clearMessage 0 s

/-- RDSTAT (R86): no precondition, executed in the halted state too. -/
def execRdstat (s : State) : Result := accept s.dev s.dev.status s

/-- RDCNT (R88): allowed in every phase but HALTED. -/
def execRdcnt (sel : CounterHalf) (s : State) : Result :=
  guarded true s <| accept s.dev (s.dev.counterHalf sel) s

end Sys2Proof.Machine
end

