-- ==== Sys2Proof/Machine/Padder.lean ====
section
/-! DEFINITION. The Padder's commands: PUSHB, FINAL and NEXT (spec/40_padder.md R67, R68, R69). -/

namespace Sys2Proof.Machine

/-- What an accepted PUSHB does to the device (R67). -/
def Device.pushByte (d : Device) (b : Byte) : Device :=
  { d with
    buf := d.buf.setIfInBounds d.fill.toNat b
    fill := d.fill + 1
    bitLen := d.bitLen + 8
    rdy := d.rdy || d.fill + 1 == 64 }

/-- What an accepted FINAL does to the device (R68). -/
def Device.closeMessage (d : Device) : Device :=
  { d with
    buf := finalBlock d.buf d.fill.toNat d.bitLen
    last := d.fill.toNat ≤ 55
    lpend := !decide (d.fill.toNat ≤ 55)
    fin := true
    rdy := true
    fill := 64 }

/-- What an accepted NEXT does to the device (R69): build the length-only block, finish the message, or make room. -/
def Device.release (d : Device) : Device :=
  if d.lpend then
    { d with
      blkIdx := d.blkIdx + 1, sv := false
      buf := lengthBlock d.bitLen, lpend := false, last := true, rdy := true, fill := 64 }
  else if d.last then
    { d with blkIdx := d.blkIdx + 1, sv := false, last := false, rdy := false, fill := 0, done := true }
  else
    { d with blkIdx := d.blkIdx + 1, sv := false, rdy := false, fill := 0 }

/-- PUSHB (R67, R92).  `buf[fill]` exists in every state a run reaches; elsewhere log entry 6 applies. -/
def execPushb (b : Byte) (s : State) : Result :=
  guarded s.dev.canAbsorb s <|
    if s.dev.bitLen = Config.maxBitLen then reject .eLenOvf s
    else if s.dev.fill.toNat < 64 then accept (s.dev.pushByte b) 0 s
    else .fault .bufOverrun

/-- FINAL (R68).  `buf[fill]` exists in every state a run reaches; elsewhere log entry 6 applies. -/
def execFinal (s : State) : Result :=
  guarded s.dev.canAbsorb s <|
    if s.dev.fill.toNat < 64 then accept s.dev.closeMessage 0 s else .fault .bufOverrun

/-- NEXT (R69). -/
def execNext (s : State) : Result :=
  guarded s.dev.presenting s <| accept s.dev.release 0 s

end Sys2Proof.Machine
end

