-- ==== Sys2Proof/Machine/Schedule.lean ====
section
/-! DEFINITION. The ScheduleExpander: the σ functions, the recurrence, EXPAND and RDW (spec/42_schedule.md R75 to R82). -/

namespace Sys2Proof.Machine

/-- `rotr32(x, n)` (R76), for 1 ≤ n ≤ 31. -/
def rotr32 (x : Word) (n : Nat) : Word := (x >>> n) ||| (x <<< (32 - n))

/-- σ0 (R77), with no special case for zero (R6). -/
def sigma0 (x : Word) : Word := rotr32 x 7 ^^^ rotr32 x 18 ^^^ (x >>> 3)

/-- σ1 (R78), with no special case for zero (R6). -/
def sigma1 (x : Word) : Word := rotr32 x 17 ^^^ rotr32 x 19 ^^^ (x >>> 10)

/-- The recurrence (R79) at `t` = `i` + 16, so `t` - 2, `t` - 7, `t` - 15 and `t` - 16 are `i` + 14, `i` + 9,
`i` + 1 and `i`. -/
def scheduleStep (W : Vector Word 64) (i : Fin 48) : Vector Word 64 :=
  W.set (i.val + 16) (sigma1 W[i.val + 14] + W[i.val + 9] + sigma0 W[i.val + 1] + W[i.val])

/-- Words 0 to 15 of the schedule are the block's words (R80); the others are still to be computed. -/
def scheduleSeed (w : Vector Word 16) : Vector Word 64 :=
  Vector.ofFn fun t : Fin 64 => if h : t.val < 16 then w[t.val] else 0

/-- `expand` (R80): `t` runs from 16 to 63 in increasing order (R83). -/
@[irreducible] def expand (w : Vector Word 16) : Vector Word 64 := (List.finRange 48).foldl scheduleStep (scheduleSeed w)

/-- What an accepted EXPAND does to the device (R81). -/
def Device.expandBlock (d : Device) : Device := { d with W := expand (blockWords d.buf), sv := true }

/-- EXPAND (R81). -/
def execExpand (s : State) : Result :=
  guarded s.dev.presenting s <| accept s.dev.expandBlock 0 s

/-- RDW (R82): a pure read of a schedule word. -/
def execRdw (t : Fin 64) (s : State) : Result :=
  guarded s.dev.scheduled s <| accept s.dev (s.dev.scheduleWord t) s

end Sys2Proof.Machine
end

