-- ==== Sys2Proof/Machine/Dispatch.lean ====
section
/-! DEFINITION. One arm per command (spec/30_encoding.md R55). -/

namespace Sys2Proof.Machine

def exec (i : Instr) (s : State) : Host.Outcome State Fault Refusal :=
  match i with
  | .init => Sys2Proof.Machine.execInit s
  | .pushb b => Sys2Proof.Machine.execPushb b s
  | .final => Sys2Proof.Machine.execFinal s
  | .expand => Sys2Proof.Machine.execExpand s
  | .next => Sys2Proof.Machine.execNext s
  | .rdbw i' => Sys2Proof.Machine.execRdbw i' s
  | .rdw t => Sys2Proof.Machine.execRdw t s
  | .rdcnt sel => Sys2Proof.Machine.execRdcnt sel s
  | .rdstat => Sys2Proof.Machine.execRdstat s

end Sys2Proof.Machine
end

