-- ==== Sys2Proof/Decode.lean ====
section
/-! DEFINITION. The command decoder (spec/30_encoding.md R62), total on every 32-bit word and rejecting by name,
the encoder, and the opcode map as a table (R55). -/

namespace Sys2Proof

/-- Why a word is illegal (R60). -/
inductive DecodeError where
  /-- `OP` is 0x00 or in 0x0A to 0xFF. -/
  | unassignedOpcode (op : Byte)
  /-- `OP` is assigned and a reserved argument bit is set (R59). -/
  | reservedArgument (op : Byte)
  deriving DecidableEq, Repr

/-- `OP`: bits [31:24] of a command word (R51). -/
def opField (w : Word) : Byte := w.extractLsb' 24 8

/-- `ARG`: bits [23:0] of a command word (R51). -/
def argField (w : Word) : BitVec 24 := w.extractLsb' 0 24

/-- `ARG[23:n]` = 0: every reserved bit of a format whose field has `n` bits is 0 (R54). -/
def argFits (n : Nat) (w : Word) : Bool := argField w >>> n == 0

/-- The selector field read as a name (R58). -/
def CounterHalf.ofField (sel : BitVec 2) : CounterHalf :=
  if sel = 0 then .bitLenLow else if sel = 1 then .bitLenHigh else if sel = 2 then .blkIdxLow else .blkIdxHigh

/-- The selector field of a counter half (R58). -/
def CounterHalf.code : CounterHalf → BitVec 2
  | .bitLenLow => 0
  | .bitLenHigh => 1
  | .blkIdxLow => 2
  | .blkIdxHigh => 3

/-- A command whose format has an `n`-bit field, once its opcode is known: legal when the reserved bits are 0. -/
def withArgument (n : Nat) (w : Word) (i : Instr) : Except DecodeError Instr :=
  if argFits n w then .ok i else .error (.reservedArgument (opField w))

/-- The decode function (R62). -/
def decode (w : Word) : Except DecodeError Instr :=
  if opField w = 0x01 then withArgument 0 w .init
  else if opField w = 0x02 then withArgument 8 w (.pushb (w.extractLsb' 0 8))
  else if opField w = 0x03 then withArgument 0 w .final
  else if opField w = 0x04 then withArgument 0 w .expand
  else if opField w = 0x05 then withArgument 0 w .next
  else if opField w = 0x06 then withArgument 4 w (.rdbw (w.extractLsb' 0 4).toFin)
  else if opField w = 0x07 then withArgument 6 w (.rdw (w.extractLsb' 0 6).toFin)
  else if opField w = 0x08 then withArgument 2 w (.rdcnt (.ofField (w.extractLsb' 0 2)))
  else if opField w = 0x09 then withArgument 0 w .rdstat
  else .error (.unassignedOpcode (opField w))

/-- A command word from its two fields (R51, R63: `(OP << 24) OR operand`). -/
def commandWord (op : Byte) (operand : Word) : Word := (op.setWidth 32 <<< 24) ||| operand

/-- The encoder: the word of a command (R55). -/
def encode : Instr → Word
  | .init => commandWord 0x01 0
  | .pushb b => commandWord 0x02 (b.setWidth 32)
  | .final => commandWord 0x03 0
  | .expand => commandWord 0x04 0
  | .next => commandWord 0x05 0
  | .rdbw i => commandWord 0x06 (BitVec.ofNat 32 i)
  | .rdw t => commandWord 0x07 (BitVec.ofNat 32 t)
  | .rdcnt sel => commandWord 0x08 (sel.code.setWidth 32)
  | .rdstat => commandWord 0x09 0

/-- A row of the opcode map (R55): a word is the row's command exactly when `(w AND mask) = match`. -/
structure OpcodeRow where
  mnemonic : String
  matchBits : Word
  mask : Word
  deriving DecidableEq, Repr

/-- The word is the command of the row (R55). -/
def OpcodeRow.matchesWord (r : OpcodeRow) (w : Word) : Bool := w &&& r.mask == r.matchBits

/-- The opcode map (R55). -/
def opcodeMap : List OpcodeRow :=
  [⟨"INIT", 0x01000000, 0xFFFFFFFF⟩, ⟨"PUSHB", 0x02000000, 0xFFFFFF00⟩, ⟨"FINAL", 0x03000000, 0xFFFFFFFF⟩,
   ⟨"EXPAND", 0x04000000, 0xFFFFFFFF⟩, ⟨"NEXT", 0x05000000, 0xFFFFFFFF⟩, ⟨"RDBW", 0x06000000, 0xFFFFFFF0⟩,
   ⟨"RDW", 0x07000000, 0xFFFFFFC0⟩, ⟨"RDCNT", 0x08000000, 0xFFFFFFFC⟩, ⟨"RDSTAT", 0x09000000, 0xFFFFFFFF⟩]

/-- The mnemonic of a command in the opcode map (R55). -/
def Instr.mnemonic : Instr → String
  | .init => "INIT"
  | .pushb _ => "PUSHB"
  | .final => "FINAL"
  | .expand => "EXPAND"
  | .next => "NEXT"
  | .rdbw _ => "RDBW"
  | .rdw _ => "RDW"
  | .rdcnt _ => "RDCNT"
  | .rdstat => "RDSTAT"

/-- The instruction the decoder reads from a word numbered as spec/opcode_table.json numbers it.  Every command is
one 32-bit word on `cmd_data` (R50), so there is no byte order to undo. -/
def decodeTableWord (nbits w : Nat) : Option Instr :=
  match decode (BitVec.ofNat 32 (w % 2 ^ nbits)) with
  | .ok i => some i
  | .error _ => none

end Sys2Proof
end

