-- ==== Sys2Proof/Machine/Port.lean ====
section
/-! DEFINITION. The host port (spec/20_memory.md R39 to R41): what one rising edge of `clk` does to everything but the
command itself, and reset (spec/70_reset_and_hazards.md R109, R110). -/

namespace Sys2Proof.Machine

/-- What a host with nothing to say drives: no reset, no command, not ready for a response (log entry 4). -/
def Pins.quiet : Pins := ⟨false, false, 0, false⟩

/-- The inputs the next edge samples; a host whose list has run out is quiet (log entry 4). -/
def State.input (s : State) : Pins := s.pins.headD Pins.quiet

/-- The state with the sampled inputs consumed. -/
def State.sampled (s : State) : State := { s with pins := s.pins.tail }

/-- `cmd_ready` (R41, R109): no command is outstanding and `rst` is 0 (DEDUCED, log entry 2). -/
def State.cmdReady (s : State) : Bool := s.port == .idle && !s.input.rst

/-- The response on `rsp_code` and `rsp_data` while `rsp_valid` = 1; nothing while it is 0 (R40, log entry 8). -/
def State.rspOut (s : State) : Option Response :=
  match s.port with
  | .offering rsp => some rsp
  | .idle => none
  | .busy _ _ => none

/-- `rsp_valid` (R40). -/
def State.rspValid (s : State) : Bool := s.rspOut.isSome

/-- The four lines `rsp_code[3:0]` while `rsp_valid` = 1 (R39, R52). -/
def State.rspCode (s : State) : Option (BitVec 4) := s.rspOut.map fun r => r.code.bits

/-- The lines `rsp_data[31:0]` while `rsp_valid` = 1 (R39, R52). -/
def State.rspData (s : State) : Option Word := s.rspOut.map Response.data

/-- An edge with `rst` = 1 (R109, R110): the reset state, and the outstanding command is discarded.  The host's inputs
and the model's counter of free values are not the device's and stay. -/
def State.resetEdge (s : State) : State := { State.reset with pins := s.pins, draws := s.draws }

/-- A command is accepted: `cmd_data` is sampled (R40). -/
def State.latchCommand (w : Word) (s : State) : State := { s with cmd := w }

/-- `rsp_valid` is raised at this edge, the `waited + 1`-th since acceptance: at the latest when `LATENCY(cmd)` cycles
have passed, earlier by a free choice (R40, log entry 3). -/
def State.raisesValid (s : State) (waited : Nat) : Bool :=
  decide (Config.latency s.cmd ≤ waited + 1) || Config.respondsEarly s.draws

/-- An edge at which an accepted command's response is not yet valid (R40). -/
def State.waitResponse (rsp : Response) (waited : Nat) (s : State) : State :=
  { s with
    port := if s.raisesValid waited then .offering rsp else .busy rsp (waited + 1)
    draws := s.draws + 1 }

/-- An edge at which a response is offered: it is taken when `rsp_ready` = 1, and held otherwise (R40). -/
def State.offerResponse (ready : Bool) (s : State) : State :=
  if ready then { s with port := .idle } else s

/-- What an edge does: it accepts a command, or it changes the port only. -/
inductive Edge where
  | accepts (w : Word) (s : State)
  | settles (s : State)
  deriving DecidableEq, Repr

/-- One rising edge of `clk` (R40, R41, R109). -/
def State.edge (s : State) : Edge :=
  if s.input.rst then .settles s.sampled.resetEdge
  else
    match s.port with
    | .idle =>
      if s.input.cmdValid then .accepts s.input.cmdData (s.sampled.latchCommand s.input.cmdData)
      else .settles s.sampled
    | .busy rsp waited => .settles (s.sampled.waitResponse rsp waited)
    | .offering _ => .settles (s.sampled.offerResponse s.input.rspReady)

/-- What the host gets at this edge (R43): the pair of the command word and its response, when the response is taken. -/
def State.taken (s : State) : Option (Word × Response) :=
  if !s.input.rst && s.input.rspReady then s.rspOut.map (Prod.mk s.cmd) else none

/-- The host offers a word at the next edge, with the port idle and `rst` low. -/
def State.offerWord (s : State) (w : Word) : State :=
  { s with port := .idle, pins := ⟨false, true, w, false⟩ :: s.pins }

end Sys2Proof.Machine
end

