-- ==== Sys2Proof/Machine/Step.lean ====
section
/-! DEFINITION. One step of the machine: one rising edge of `clk` (spec/20_memory.md R40).  An edge that accepts a command
runs it there and then, as one atomic step (R40); any other edge changes the port only. -/

namespace Sys2Proof.Machine

/-- Run a command word: decode it (check 1 of R98), then execute it; an illegal word is rejected with E_ILLEGAL (R90). -/
def runWord (w : Word) (s : State) : Host.Outcome State Fault Refusal :=
  match decode w with
  | .ok i => exec i s
  | .error _ => reject .eIllegal s

/-- One rising edge of `clk`. -/
def step (s : State) : Host.Outcome State Fault Refusal :=
  match s.edge with
  | .accepts w s' => runWord w s'
  | .settles s' => .next s'

/-- The state whose next step accepts and runs the command word `w` of `nbits` bits (log entry 5). -/
def State.withFetchWord (s : State) (nbits w : Nat) : State := s.offerWord (BitVec.ofNat 32 (w % 2 ^ nbits))

end Sys2Proof.Machine
end

