-- ==== Sys2Proof/WellFormed.lean ====
section
/-! DEFINITION. Which assembler lines are well formed (spec/30_encoding.md R56, R57, R58, R63): "an operand out of
its field's range is an assembly error".  An `Instr` needs no check: its operand types hold the field's values only. -/

namespace Sys2Proof

/-- The operand of a line fits its field (R63). -/
def AsmLine.wellFormed : AsmLine → Bool
  | .init => true
  | .pushb b => b < 256
  | .final => true
  | .expand => true
  | .next => true
  | .rdbw i => i < 16
  | .rdw t => t < 64
  | .rdcnt sel => sel < 4
  | .rdstat => true
  | .pushs _ => true
  | .rdall => true

end Sys2Proof
end

