-- ==== Sys2Proof/Machine/Assembler.lean ====
section
/-! DEFINITION. The assembler of command programs (spec/30_encoding.md R63): from a line's text to its commands and their
words.  Notation only; the device never sees it. -/

namespace Sys2Proof

/-- The selector's name for an operand of RDCNT (R58). -/
def CounterHalf.ofNumber (n : Nat) : CounterHalf := .ofField (BitVec.ofNat 2 n)

/-- The commands a well-formed line stands for (R63): one, or a pseudo-command's expansion. -/
def AsmLine.commands : AsmLine → List Instr
  | .init => [.init]
  | .pushb b => [.pushb (BitVec.ofNat 8 b)]
  | .final => [.final]
  | .expand => [.expand]
  | .next => [.next]
  | .rdbw i => [.rdbw (Fin.ofNat 16 i)]
  | .rdw t => [.rdw (Fin.ofNat 64 t)]
  | .rdcnt sel => [.rdcnt (.ofNumber sel)]
  | .rdstat => [.rdstat]
  | .pushs text => text.map .pushb
  | .rdall => (List.finRange 64).map .rdw

/-- The words of a line; nothing for a line with an operand out of its field's range, which is an assembly error (R63). -/
def AsmLine.assemble (a : AsmLine) : Option (List Word) :=
  if a.wellFormed then some (a.commands.map encode) else none

/-- The words of a program, one line after another; nothing if a line is an assembly error. -/
def assembleProgram : List AsmLine → Option (List Word)
  | [] => some []
  | a :: rest => do
    let here ← a.assemble
    let more ← assembleProgram rest
    pure (here ++ more)

/-- The value of a digit, in a base up to 16. -/
def digitValue (base : Nat) (c : Char) : Option Nat :=
  let v :=
    if '0' ≤ c ∧ c ≤ '9' then c.toNat - '0'.toNat
    else if 'a' ≤ c ∧ c ≤ 'f' then c.toNat - 'a'.toNat + 10
    else if 'A' ≤ c ∧ c ≤ 'F' then c.toNat - 'A'.toNat + 10
    else base
  if v < base then some v else none

/-- The value of a run of digits read after `acc`. -/
def digitsValue (base : Nat) : Nat → List Char → Option Nat
  | acc, [] => some acc
  | acc, c :: cs =>
    match digitValue base c with
    | some v => digitsValue base (acc * base + v) cs
    | none => none

/-- An operand as text: hex with the `0x` prefix, or decimal (R63). -/
def parseOperand : List Char → Option Nat
  | [] => none
  | '0' :: 'x' :: c :: cs => digitsValue 16 0 (c :: cs)
  | c :: cs => digitsValue 10 0 (c :: cs)

/-- What remains once trailing blanks are gone (log entry 12). -/
def dropTrailingBlanks (cs : List Char) : List Char := (cs.reverse.dropWhile (· == ' ')).reverse

/-- A `;` starts a comment that runs to the end of the line (R63). -/
def dropComment (cs : List Char) : List Char := dropTrailingBlanks (cs.takeWhile (· != ';'))

/-- The bytes of a quoted text up to its closing quote, and what follows it: printable ASCII only (log entry 12). -/
def parseQuoted : List Char → Option (List Byte × List Char)
  | [] => none
  | c :: cs =>
    if c = '"' then some ([], cs)
    else if ' ' ≤ c ∧ c ≤ '~' then
      match parseQuoted cs with
      | some (bytes, rest) => some (BitVec.ofNat 8 c.toNat :: bytes, rest)
      | none => none
    else none

/-- A line with an operand: the constructor that takes it, by mnemonic. -/
def operandLine : List Char → Option (Nat → AsmLine)
  | ['P', 'U', 'S', 'H', 'B'] => some .pushb
  | ['R', 'D', 'B', 'W'] => some .rdbw
  | ['R', 'D', 'W'] => some .rdw
  | ['R', 'D', 'C', 'N', 'T'] => some .rdcnt
  | _ => none

/-- A line without an operand, by mnemonic. -/
def plainLine : List Char → Option AsmLine
  | ['I', 'N', 'I', 'T'] => some .init
  | ['F', 'I', 'N', 'A', 'L'] => some .final
  | ['E', 'X', 'P', 'A', 'N', 'D'] => some .expand
  | ['N', 'E', 'X', 'T'] => some .next
  | ['R', 'D', 'S', 'T', 'A', 'T'] => some .rdstat
  | ['R', 'D', 'A', 'L', 'L'] => some .rdall
  | _ => none

/-- A line of a program (R63): nothing if it is an assembly error, and no `AsmLine` if it is blank or a comment. -/
def parseLine : List Char → Option (Option AsmLine)
  | 'P' :: 'U' :: 'S' :: 'H' :: 'S' :: ' ' :: '"' :: text =>
    match parseQuoted text with
    | some (bytes, rest) => if dropComment rest = [] then some (some (.pushs bytes)) else none
    | none => none
  | cs =>
    let line := dropComment cs
    let mnemonic := line.takeWhile (· != ' ')
    if line = [] then some none
    else
      match line.dropWhile (· != ' ') with
      | [] => (plainLine mnemonic).map some
      | _ :: operand =>
        match operandLine mnemonic, parseOperand operand with
        | some mk, some n => some (some (mk n))
        | _, _ => none

end Sys2Proof
end

