-- ==== Sys2Proof/Safety.lean ====
section
/-! DEFINITION. What the statements are written in: the invariant of spec/10_state.md R27, the padded message of
spec/40_padder.md R65 and what the device holds of it (R64, R66), what the host may observe (R31, R43), and clean runs
(spec/70_reset_and_hazards.md R116). -/

namespace Sys2Proof.Machine

/-- The message has a whole number of bytes in `bitLen` (R15). -/
def Device.messageBytes (d : Device) : Nat := d.bitLen.toNat / 8

/-- The invariant of R27, line by line, with the value that R17 gives `W` while `sv` = 1 and the block index that R66 and
R69 give a closed message (from which R16's bound follows). -/
structure Device.Inv (d : Device) : Prop where
  fill_le : d.fill.toNat ≤ 64
  fill_full : d.fill = 64 ↔ d.rdy = true
  sv_rdy : d.sv = true → d.rdy = true
  last_rdy : d.last = true → d.rdy = true ∧ d.fin = true
  lpend_rdy : d.lpend = true → d.rdy = true ∧ d.fin = true ∧ d.last = false
  done_fin : d.done = true → d.fin = true ∧ d.rdy = false ∧ d.fill = 0 ∧ d.lpend = false
  closed_done : d.fin = true → d.rdy = false → d.done = true
  open_count : d.fin = false → d.bitLen.toNat = 8 * (64 * d.blkIdx.toNat + d.fill.toNat)
  whole_bytes : d.bitLen.toNat % 8 = 0
  err_legal : d.err.toNat ≤ 3
  schedule : d.sv = true → d.W = expand (blockWords d.buf)
  presenting_tail : d.fin = true → d.rdy = true → d.last = true ∨ d.lpend = true
  index_last : d.last = true → d.blkIdx.toNat = (d.messageBytes + 8) / 64
  index_lpend : d.lpend = true →
    64 * d.blkIdx.toNat + 56 ≤ d.messageBytes ∧ d.messageBytes < 64 * d.blkIdx.toNat + 64
  index_done : d.done = true → d.blkIdx.toNat = (d.messageBytes + 8) / 64 + 1

/-- What R52, R53 and R93 say of every response: a rejection carries 0, and E_INVARIANT is never produced. -/
def Response.Legal (r : Response) : Prop := r.code ≠ .eInvariant ∧ (r.code ≠ .ok → r.data = 0)

/-- The port keeps R40's bound on the wait and holds legal responses only. -/
def State.PortInv (s : State) : Prop :=
  match s.port with
  | .idle => True
  | .busy rsp waited => rsp.Legal ∧ waited < Config.latency s.cmd
  | .offering rsp => rsp.Legal

/-- The invariant of the machine. -/
structure State.Inv (s : State) : Prop where
  dev : s.dev.Inv
  port : s.PortInv

/-- `BE64bytes(v)` (R10). -/
def be64Bytes (v : DWord) : List Byte := (List.range 8).map (be64Byte v)

/-- `k` of R65: the number of zero bytes between the marker and the length. -/
def padZeros (M : List Byte) : Nat := ((55 - (M.length : Int)) % 64).toNat

/-- `pad(M)` (R65). -/
def pad (M : List Byte) : List Byte :=
  M ++ [Config.padMarker] ++ List.replicate (padZeros M) 0 ++ be64Bytes (BitVec.ofNat 64 (8 * M.length))

/-- `N(M)` (R65): the number of blocks of the padded message. -/
def blockCount (M : List Byte) : Nat := (M.length + 8) / 64 + 1

/-- Block `j` of the padded message (R72). -/
def paddedBlock (M : List Byte) (j : Nat) : List Byte := ((pad M).drop (64 * j)).take 64

/-- The device holds the message `M` (R64) and presents the blocks of its padding (R66): while the message is open, `buf`
begins with the bytes of the current block, and once it is closed a presented block is block `blkIdx` of `pad(M)`. -/
structure Device.Holds (d : Device) (M : List Byte) : Prop where
  length_eq : d.bitLen.toNat = 8 * M.length
  open_bytes : d.fin = false → d.buf.toList.take d.fill.toNat = M.drop (64 * d.blkIdx.toNat)
  closed_block : d.fin = true → d.rdy = true → d.buf.toList = paddedBlock M d.blkIdx.toNat
  closed_last : d.fin = true → d.rdy = true → (d.last = true ↔ d.blkIdx.toNat + 1 = blockCount M)
  closed_index : d.done = true → d.blkIdx.toNat = blockCount M

/-- The response a command has just left at the port. -/
def State.answer (s : State) : Option Response :=
  match s.port with
  | .busy rsp _ => some rsp
  | .idle => none
  | .offering _ => none

/-- The response of a command that answers a next state. -/
def answerOf (r : Result) : Option Response :=
  match r with
  | .next s => s.answer
  | .fault _ => none
  | .refused _ => none

/-- The message after a command (R64): an accepted PUSHB appends its byte, an accepted INIT starts an empty message. -/
def messageAfter (i : Instr) (code : RspCode) (M : List Byte) : List Byte :=
  if code = .ok then
    match i with
    | .init => []
    | .pushb b => M ++ [b]
    | .final => M
    | .expand => M
    | .next => M
    | .rdbw _ => M
    | .rdw _ => M
    | .rdcnt _ => M
    | .rdstat => M
  else M

/-- The bytes the PUSHBs of a sequence of commands carry, in order (R64). -/
def pushedBytes : List Instr → List Byte
  | [] => []
  | .pushb b :: is => b :: pushedBytes is
  | _ :: is => pushedBytes is

/-- The state after a sequence of commands every one of which is accepted; nothing if one is not. -/
def runAccepted : List Instr → State → Option State
  | [], s => some s
  | i :: is, s =>
    match exec i s with
    | .next s' => if s'.answer.map Response.code = some .ok then runAccepted is s' else none
    | .fault _ => none
    | .refused _ => none

/-- A command presents a block (R66): `rdy` goes from 0 to 1, or a NEXT builds the length-only block, which is the one
thing that takes `lpend` from 1 to 0 in a NEXT (R69).  A rejected command changes neither, so it presents nothing. -/
def presents (i : Instr) (before after : Device) : Bool :=
  (!before.rdy && after.rdy) || (i == .next && before.lpend && !after.lpend)

/-- What R66 says of a presentation: the block index, whether the block is the last, and its 64 bytes. -/
structure Presentation where
  index : Nat
  last : Bool
  block : List Byte
  deriving DecidableEq, Repr

/-- The presentation the device now shows. -/
def Device.presentation (d : Device) : Presentation := ⟨d.blkIdx.toNat, d.last, d.buf.toList⟩

/-- The blocks presented in a sequence of commands, in order (R66). -/
def presentations : List Instr → State → List Presentation
  | [], _ => []
  | i :: is, s =>
    match exec i s with
    | .next s' =>
      if presents i s.dev s'.dev then s'.dev.presentation :: presentations is s' else presentations is s'
    | .fault _ => []
    | .refused _ => []

/-- One command word at the level of transactions (R40, decision D2): `(s, cmd) -> (s', code, data)`, its response taken. -/
def transact (w : Word) (s : State) : Option (State × Response) :=
  match runWord w (s.latchCommand w) with
  | .next s' => s'.answer.map (Prod.mk { s' with port := .idle })
  | .fault _ => none
  | .refused _ => none

/-- The observation of a run at the level of transactions (R43): the pairs of command word and response, in order. -/
def transcript : List Word → State → List (Word × Response)
  | [], _ => []
  | w :: ws, s =>
    match transact w s with
    | some (s', rsp) => (w, rsp) :: transcript ws s'
    | none => []

/-- The state a run of command words ends in. -/
def afterWords : List Word → State → Option State
  | [], s => some s
  | w :: ws, s =>
    match transact w s with
    | some (s', _) => afterWords ws s'
    | none => none

/-- The command words the device accepts in `n` edges (R40). -/
def acceptedWords : Nat → State → List Word
  | 0, _ => []
  | n + 1, s =>
    let here : List Word :=
      match s.edge with
      | .accepts w _ => [w]
      | .settles _ => []
    match step s with
    | .next s' => here ++ acceptedWords n s'
    | .fault _ => here
    | .refused _ => here

/-- The responses the host takes in `n` edges, each with its command word (R41, R43). -/
def observations : Nat → State → List (Word × Response)
  | 0, _ => []
  | n + 1, s =>
    match step s with
    | .next s' => s.taken.toList ++ observations n s'
    | .fault _ => s.taken.toList
    | .refused _ => s.taken.toList

/-- A run of command words processed a message cleanly (R116): every response code is OK, and the run ends with
`done` = 1 and `err` = 0. -/
def CleanRun (ws : List Word) (s : State) : Prop :=
  ∃ s', afterWords ws s = some s' ∧ (∀ p ∈ transcript ws s, p.2.code = .ok) ∧ s'.dev.done = true ∧ s'.dev.err = 0

/-- What the host did with a presented block: whether a run expanded it, and the words it read from its schedule with
RDW, in order (R116). -/
structure BlockUse where
  expanded : Bool
  words : List (Fin 64 × Word)
  deriving DecidableEq, Repr

/-- A block the host left alone. -/
def BlockUse.unused : BlockUse := ⟨false, []⟩

/-- A command, with its response, that came before the others in the use of a block: an accepted EXPAND or RDW counts. -/
def BlockUse.preceded (u : BlockUse) (i : Instr) (rsp : Response) : BlockUse :=
  if rsp.code = .ok then
    match i with
    | .expand => { u with expanded := true }
    | .rdw t => { u with words := (t, rsp.data) :: u.words }
    | .init => u
    | .pushb _ => u
    | .final => u
    | .next => u
    | .rdbw _ => u
    | .rdcnt _ => u
    | .rdstat => u
  else u

/-- A block presented in a run, and what the host did with it. -/
structure ShownBlock where
  shown : Presentation
  use : BlockUse
  deriving DecidableEq, Repr

/-- The result of a run (R116): the blocks presented, in order, each with what the host read of its schedule.
What it read of a block presented before the run began stands apart (log entry 16). -/
structure RunResult where
  atStart : BlockUse
  blocks : List ShownBlock
  deriving DecidableEq, Repr

/-- The result of a run whose first command is `i`, from the result of the rest of it. -/
def RunResult.preceded (r : RunResult) (i : Instr) (before after : Device) (rsp : Response) : RunResult :=
  if presents i before after then ⟨.unused, ⟨after.presentation, r.atStart⟩ :: r.blocks⟩
  else { r with atStart := r.atStart.preceded i rsp }

/-- The result of a run of command words (R116). -/
def runResult : List Word → State → RunResult
  | [], _ => ⟨.unused, []⟩
  | w :: ws, s =>
    match transact w s with
    | some (s', rsp) =>
      match decode w with
      | .ok i => (runResult ws s').preceded i s.dev s'.dev rsp
      | .error _ => runResult ws s'
    | none => ⟨.unused, []⟩

/-- The schedule of a block given as its bytes (R72, R73, R80). -/
def scheduleOf (block : List Byte) : Vector Word 64 :=
  expand (blockWords (Vector.ofFn fun k : Fin 64 => block.getD k.val 0))

/-- What a host does with one presented block before it releases it (R111): it reads block words, and it may expand the
block and read schedule words. -/
structure BlockVisit where
  blockReads : List (Fin 16)
  scheduleReads : Option (List (Fin 64))
  deriving DecidableEq, Repr

/-- `[RDBW i ...] [EXPAND [RDW t ...]]` (R111). -/
def BlockVisit.commands (v : BlockVisit) : List Instr :=
  v.blockReads.map .rdbw ++
    match v.scheduleReads with
    | none => []
    | some ts => .expand :: ts.map .rdw

/-- The commands that push the bytes of a message, `n` of which are pushed already, and visit and release each block that
fills (R111). -/
def pushProgram (visit : Nat → BlockVisit) : Nat → List Byte → List Instr
  | _, [] => []
  | n, b :: bs =>
    .pushb b ::
      ((if (n + 1) % 64 = 0 then (visit (n / 64)).commands ++ [.next] else []) ++ pushProgram visit (n + 1) bs)

/-- The command sequence for one message (R111), whose block `j` the host visits as `visit j` says.  FINAL is followed by
one or two blocks (R70). -/
def hostProgram (visit : Nat → BlockVisit) (M : List Byte) : List Instr :=
  .init ::
    (pushProgram visit 0 M ++
      .final ::
        ((visit (M.length / 64)).commands ++
          .next :: (if M.length % 64 ≤ 55 then [] else (visit (M.length / 64 + 1)).commands ++ [.next])))

/-- Two devices that a host cannot tell apart (R27, R31): every field but `buf` and `W` is the same, the bytes of `buf`
written for the current block are the same, and so is `W` while `sv` = 1. -/
structure Device.SameVisible (d e : Device) : Prop where
  bitLen : d.bitLen = e.bitLen
  blkIdx : d.blkIdx = e.blkIdx
  fill : d.fill = e.fill
  rdy : d.rdy = e.rdy
  sv : d.sv = e.sv
  last : d.last = e.last
  fin : d.fin = e.fin
  lpend : d.lpend = e.lpend
  done : d.done = e.done
  err : d.err = e.err
  buf : d.buf.toList.take d.fill.toNat = e.buf.toList.take e.fill.toNat
  schedule : d.sv = true → d.W = e.W

/-- The state precondition of each command (R91). -/
def Device.allows (d : Device) : Instr → Bool
  | .init => true
  | .pushb _ => !d.fin && !d.rdy
  | .final => !d.fin && !d.rdy
  | .expand => d.rdy
  | .next => d.rdy
  | .rdbw _ => d.rdy
  | .rdw _ => d.sv
  | .rdcnt _ => true
  | .rdstat => true

/-- The commands executed in the halted state (R97). -/
def runsHalted : Instr → Bool
  | .init => true
  | .rdstat => true
  | .pushb _ => false
  | .final => false
  | .expand => false
  | .next => false
  | .rdbw _ => false
  | .rdw _ => false
  | .rdcnt _ => false

/-- The commands that only read (R36). -/
def isRead : Instr → Bool
  | .rdbw _ => true
  | .rdw _ => true
  | .rdcnt _ => true
  | .rdstat => true
  | .init => false
  | .pushb _ => false
  | .final => false
  | .expand => false
  | .next => false

/-- The host's duty at the port (R40, R42): an offered word stays the same until it is accepted. -/
def State.HostHoldsCommand (s : State) : Prop :=
  s.input.cmdValid = true → s.cmdReady = false → s.sampled.input.cmdValid = true →
    s.sampled.input.cmdData = s.input.cmdData

end Sys2Proof.Machine
end

