-- ==== Sys2Proof/Certificates/Slice0/Obligations.lean ====
section
/-! DEFINITION. The statements for the provers, in the order of OBLIGATIONS.json. -/

open Sys2Proof Sys2Proof.Machine

/-! ### Encoding -/

/-- Decoding an encoded command gives it back, with every operand at every value its field admits
(spec/30_encoding.md R55, R62). -/
def Obligations.DecodeEncodeRoundTrip : Prop :=
  ∀ i : Instr, decode (encode i) = .ok i

/-- Each legal word is the word of the one command it decodes to (R55, R62). -/
def Obligations.EncodeDecodeRoundTrip : Prop :=
  ∀ (w : Word) (i : Instr), decode w = .ok i → encode i = w

/-- R55: a word is the command of a row exactly when `(w AND mask) = match`, and no word matches two rows. -/
def Obligations.DecodeFollowsOpcodeMap : Prop :=
  ∀ w : Word,
    (∀ r ∈ opcodeMap, (w &&& r.mask = r.matchBits ↔ ∃ i, decode w = .ok i ∧ i.mnemonic = r.mnemonic)) ∧
    (∀ r ∈ opcodeMap, ∀ q ∈ opcodeMap, w &&& r.mask = r.matchBits → w &&& q.mask = q.matchBits → r = q)

/-- R59, R60, R90: an unassigned opcode or a reserved argument bit makes a word illegal, the word that matches no row is
the illegal one, and running it answers E_ILLEGAL in every state, with no effect but `err`, and none on an `err` that
already holds a code.  The all-zero word is illegal.  The two names `unassignedOpcode` and `reservedArgument` by which the
decoder says why are the model's own (DEDUCED, log entry 14); the spec says only that the word is illegal. -/
def Obligations.IllegalWordsAreRejected : Prop :=
  (∀ w : Word, (opField w = 0 ∨ 0x0A ≤ opField w) → decode w = .error (.unassignedOpcode (opField w))) ∧
  (∀ w : Word, ∀ p ∈ ([(1, 0), (2, 8), (3, 0), (4, 0), (5, 0), (6, 4), (7, 6), (8, 2), (9, 0)] : List (Nat × Nat)),
    (opField w).toNat = p.1 → argField w >>> p.2 ≠ 0 → decode w = .error (.reservedArgument (opField w))) ∧
  (∀ w : Word, (∃ e, decode w = .error e) ↔ ∀ r ∈ opcodeMap, w &&& r.mask ≠ r.matchBits) ∧
  (∀ (w : Word) (e : DecodeError) (s : State), decode w = .error e →
    runWord w s = .next
      { s with
        dev := { s.dev with err := if s.dev.err = 0 then 1 else s.dev.err }
        port := .busy ⟨.eIllegal, 0⟩ 0 }) ∧
  decode 0 = .error (.unassignedOpcode 0)

/-- Words written out from the encodings of R54 and R55 decode to the commands they stand for, one for each format and
each opcode. -/
def Obligations.SpecWordsDecode : Prop :=
  decode 0b00000001000000000000000000000000 = .ok .init ∧
  decode 0b00000010000000000000000001100001 = .ok (.pushb 0x61) ∧
  decode 0b00000011000000000000000000000000 = .ok .final ∧
  decode 0b00000100000000000000000000000000 = .ok .expand ∧
  decode 0b00000101000000000000000000000000 = .ok .next ∧
  decode 0b00000110000000000000000000001111 = .ok (.rdbw 15) ∧
  decode 0b00000111000000000000000000111111 = .ok (.rdw 63) ∧
  decode 0b00001000000000000000000000000010 = .ok (.rdcnt .blkIdxLow) ∧
  decode 0b00001001000000000000000000000000 = .ok .rdstat

/-- R63: a line without an operand is encoded as its opcode alone; a line with an operand is encoded as
`(OP << 24) OR operand`; an operand out of its field's range is an error, never truncated; and the pseudo-commands expand
as the rule says. -/
def Obligations.AssemblerNeverTruncates : Prop :=
  (AsmLine.init.assemble = some [0x01000000] ∧ AsmLine.final.assemble = some [0x03000000] ∧
    AsmLine.expand.assemble = some [0x04000000] ∧ AsmLine.next.assemble = some [0x05000000] ∧
    AsmLine.rdstat.assemble = some [0x09000000]) ∧
  (∀ n : Nat, (AsmLine.pushb n).assemble =
    if n < 256 then some [BitVec.ofNat 32 (0x02 <<< 24 ||| n)] else none) ∧
  (∀ n : Nat, (AsmLine.rdbw n).assemble =
    if n < 16 then some [BitVec.ofNat 32 (0x06 <<< 24 ||| n)] else none) ∧
  (∀ n : Nat, (AsmLine.rdw n).assemble =
    if n < 64 then some [BitVec.ofNat 32 (0x07 <<< 24 ||| n)] else none) ∧
  (∀ n : Nat, (AsmLine.rdcnt n).assemble =
    if n < 4 then some [BitVec.ofNat 32 (0x08 <<< 24 ||| n)] else none) ∧
  (∀ text : List Byte, (AsmLine.pushs text).assemble =
    some (text.map fun b => BitVec.ofNat 32 (0x02 <<< 24 ||| b.toNat))) ∧
  AsmLine.rdall.assemble = some ((List.range 64).map fun t => BitVec.ofNat 32 (0x07 <<< 24 ||| t))

/-! ### The step and the port -/

/-- When `rst` is 0, no command is outstanding and the host offers a word, the step accepts it and runs it (R40), on the
state with the edge's inputs consumed and the word sampled: a word that decodes to a command runs that command, and an
illegal word is rejected with E_ILLEGAL (R90). -/
def Obligations.StepRunsAcceptedCommand : Prop :=
  ∀ s : State, s.port = .idle → s.input.rst = false → s.input.cmdValid = true →
    step s = runWord s.input.cmdData { s with pins := s.pins.tail, cmd := s.input.cmdData } ∧
    (∀ i, decode s.input.cmdData = .ok i →
      step s = exec i { s with pins := s.pins.tail, cmd := s.input.cmdData }) ∧
    (∀ e, decode s.input.cmdData = .error e →
      step s = .next
        { s with
          pins := s.pins.tail, cmd := s.input.cmdData
          dev := { s.dev with err := if s.dev.err = 0 then 1 else s.dev.err }
          port := .busy ⟨.eIllegal, 0⟩ 0 })

/-- The step after `withFetchWord` runs exactly the command whose word was placed, from any state (R40; how a word is
placed is the model's choice, log entry 5). -/
def Obligations.FetchedWordRuns : Prop :=
  ∀ (s : State) (i : Instr),
    step (s.withFetchWord 32 (encode i).toNat) = exec i { s with port := .idle, cmd := encode i }

/-- R41: while a command is outstanding the device takes no second one: a step does not depend on what the host offers. -/
def Obligations.PortIgnoresOffersWhileOutstanding : Prop :=
  ∀ (s : State) (v : Bool) (w : Word), s.port ≠ .idle →
    s.cmdReady = false ∧
    step { s with pins := { s.input with cmdValid := v, cmdData := w } :: s.pins.tail } = step s

/-- R40: an offered response is held stable until an edge at which `rsp_ready` is 1; there the host takes it, with its
command's word, and the port is idle again.  The device does not change. -/
def Obligations.ResponseHeldUntilTaken : Prop :=
  ∀ (s : State) (rsp : Response), s.port = .offering rsp → s.input.rst = false →
    (s.input.rspReady = false → step s = .next { s with pins := s.pins.tail } ∧ s.taken = none) ∧
    (s.input.rspReady = true →
      step s = .next { s with pins := s.pins.tail, port := .idle } ∧ s.taken = some (s.cmd, rsp))

/-- R40: between 1 and `LATENCY(cmd)` cycles after a command was accepted its response is offered, unless reset comes
first; the device does not change on the way.  The number of cycles is free (log entry 3). -/
def Obligations.CommandAnsweredWithinLatency : Prop :=
  ∀ (s : State) (rsp : Response) (waited : Nat), s.port = .busy rsp waited → waited < Config.latency s.cmd →
    (∀ p ∈ s.pins.take (Config.latency s.cmd - waited), p.rst = false) →
    ∃ (k : Nat) (t : State), 1 ≤ k ∧ k ≤ Config.latency s.cmd - waited ∧
      Host.Core.run Sys2Proof.core k s = .next t ∧
      t.port = .offering rsp ∧ t.dev = s.dev ∧ t.cmd = s.cmd ∧ t.pins = s.pins.drop k

/-- R107: between commands the device holds its state unchanged, for any number of edges. -/
def Obligations.IdleDeviceHoldsItsState : Prop :=
  ∀ (n : Nat) (s : State), s.port = .idle →
    (∀ p ∈ s.pins.take n, p.rst = false ∧ p.cmdValid = false) →
    Host.Core.run Sys2Proof.core n s = .next { s with pins := s.pins.drop n }

/-- R109, R110: an edge with `rst` = 1 discards the outstanding command and its response, drives `rsp_valid` and
`cmd_ready` to 0, and leaves every field that R109 gives a value at that value, whatever the command had done.  That
`cmd_ready` is 0 at the very edge that samples `rst` = 1 is the model's reading of R109 (DEDUCED, log entry 2). -/
def Obligations.ResetEdgeDiscardsEverything : Prop :=
  ∀ s : State, s.input.rst = true →
    s.cmdReady = false ∧ s.taken = none ∧
    ∃ t, step s = .next t ∧ t.port = .idle ∧ t.rspValid = false ∧ t.pins = s.pins.tail ∧
      t.dev.rdy = false ∧ t.dev.sv = false ∧ t.dev.last = false ∧ t.dev.fin = false ∧ t.dev.lpend = false ∧
      t.dev.done = false ∧ t.dev.fill = 0 ∧ t.dev.bitLen = 0 ∧ t.dev.blkIdx = 0 ∧ t.dev.err = 0

/-- R40, R41, R44: over any number of edges without reset, whatever the host drives and however long responses take, the
responses the host takes are those of the accepted words run one after another, in order, and at most one accepted
command has no response yet. -/
def Obligations.PortServesCommandsInOrder : Prop :=
  ∀ (n : Nat) (s : State), s.dev.Inv → s.port = .idle → (∀ p ∈ s.pins.take n, p.rst = false) →
    observations n s <+: transcript (acceptedWords n s) s ∧
    (acceptedWords n s).length ≤ (observations n s).length + 1

/-- R40, R41, R42: a command word the host holds while a response is outstanding is accepted, unchanged, at the edge after
the one that takes the response. -/
def Obligations.HeldCommandIsAcceptedUnchanged : Prop :=
  ∀ (s : State) (rsp : Response), s.port = .offering rsp → s.input.rst = false → s.input.rspReady = true →
    s.input.cmdValid = true → s.HostHoldsCommand → s.sampled.input.rst = false → s.sampled.input.cmdValid = true →
    ∃ t u, step s = .next t ∧ t.dev = s.dev ∧ t.cmdReady = true ∧
      t.edge = .accepts s.input.cmdData u ∧ u.dev = s.dev ∧ u.cmd = s.input.cmdData

/-! ### The command rules -/

/-- R85: INIT has no precondition and no exception; it clears every field but `buf` and `W`, and a second INIT leaves the
same state. -/
def Obligations.InitStartsNewMessage : Prop :=
  ∀ s : State,
    exec .init s = .next
      { s with
        dev := { s.dev with
          rdy := false, sv := false, last := false, fin := false, lpend := false, done := false
          fill := 0, bitLen := 0, blkIdx := 0, err := 0 }
        port := .busy ⟨.ok, 0⟩ 0 } ∧
    ∀ t, exec .init s = .next t → exec .init t = .next t

/-- R67, whole: PUSHB appends its byte at `buf[fill]`, or is rejected for the first of its three exceptions that applies. -/
def Obligations.PushbAppendsByte : Prop :=
  ∀ (b : Byte) (s : State),
    (s.dev.err ≠ 0 → exec (.pushb b) s = .next { s with port := .busy ⟨.eHalted, 0⟩ 0 }) ∧
    (s.dev.err = 0 → s.dev.fin = true ∨ s.dev.rdy = true →
      exec (.pushb b) s = .next { s with dev := { s.dev with err := 2 }, port := .busy ⟨.eSeq, 0⟩ 0 }) ∧
    (s.dev.err = 0 → s.dev.fin = false → s.dev.rdy = false → s.dev.bitLen.toNat = 2 ^ 64 - 8 →
      exec (.pushb b) s = .next { s with dev := { s.dev with err := 3 }, port := .busy ⟨.eLenOvf, 0⟩ 0 }) ∧
    (s.dev.err = 0 → s.dev.fin = false → s.dev.rdy = false → s.dev.bitLen.toNat ≠ 2 ^ 64 - 8 →
      ∀ h : s.dev.fill.toNat < 64,
        exec (.pushb b) s = .next
          { s with
            dev := { s.dev with
              buf := s.dev.buf.set s.dev.fill.toNat b h
              fill := s.dev.fill + 1
              bitLen := s.dev.bitLen + 8
              rdy := decide (s.dev.fill.toNat = 63) }
            port := .busy ⟨.ok, 0⟩ 0 })

/-- R68, whole: FINAL writes the marker, the zeros and, where the tail leaves room, the big-endian bit length, byte by
byte, or is rejected. -/
def Obligations.FinalWritesPadding : Prop :=
  ∀ s : State,
    (s.dev.err ≠ 0 → exec .final s = .next { s with port := .busy ⟨.eHalted, 0⟩ 0 }) ∧
    (s.dev.err = 0 → s.dev.fin = true ∨ s.dev.rdy = true →
      exec .final s = .next { s with dev := { s.dev with err := 2 }, port := .busy ⟨.eSeq, 0⟩ 0 }) ∧
    (s.dev.err = 0 → s.dev.fin = false → s.dev.rdy = false → s.dev.fill.toNat < 64 →
      ∃ B : Vector Byte 64,
        exec .final s = .next
          { s with
            dev := { s.dev with
              buf := B, fin := true, rdy := true, fill := 64
              last := decide (s.dev.fill.toNat ≤ 55)
              lpend := decide (56 ≤ s.dev.fill.toNat) }
            port := .busy ⟨.ok, 0⟩ 0 } ∧
        (∀ (k : Nat) (h : k < 64),
          (k < s.dev.fill.toNat → B[k] = s.dev.buf[k]) ∧
          (k = s.dev.fill.toNat → B[k] = 0x80) ∧
          (s.dev.fill.toNat ≤ 55 → s.dev.fill.toNat < k → k ≤ 55 → B[k] = 0) ∧
          (s.dev.fill.toNat ≤ 55 → 56 ≤ k → B[k] = (s.dev.bitLen >>> (8 * (63 - k))).setWidth 8) ∧
          (56 ≤ s.dev.fill.toNat → s.dev.fill.toNat < k → B[k] = 0)))

/-- R69, whole: NEXT releases the block, and builds the length-only block, finishes the message, or makes room for the
next message block; or it is rejected. -/
def Obligations.NextReleasesBlock : Prop :=
  ∀ s : State,
    (s.dev.err ≠ 0 → exec .next s = .next { s with port := .busy ⟨.eHalted, 0⟩ 0 }) ∧
    (s.dev.err = 0 → s.dev.rdy = false →
      exec .next s = .next { s with dev := { s.dev with err := 2 }, port := .busy ⟨.eSeq, 0⟩ 0 }) ∧
    (s.dev.err = 0 → s.dev.rdy = true → s.dev.lpend = true →
      ∃ B : Vector Byte 64,
        exec .next s = .next
          { s with
            dev := { s.dev with
              blkIdx := s.dev.blkIdx + 1, sv := false
              buf := B, lpend := false, last := true, rdy := true, fill := 64 }
            port := .busy ⟨.ok, 0⟩ 0 } ∧
        (∀ (k : Nat) (h : k < 64),
          (k ≤ 55 → B[k] = 0) ∧ (56 ≤ k → B[k] = (s.dev.bitLen >>> (8 * (63 - k))).setWidth 8))) ∧
    (s.dev.err = 0 → s.dev.rdy = true → s.dev.lpend = false → s.dev.last = true →
      exec .next s = .next
        { s with
          dev := { s.dev with
            blkIdx := s.dev.blkIdx + 1, sv := false, last := false, rdy := false, fill := 0, done := true }
          port := .busy ⟨.ok, 0⟩ 0 }) ∧
    (s.dev.err = 0 → s.dev.rdy = true → s.dev.lpend = false → s.dev.last = false →
      exec .next s = .next
        { s with
          dev := { s.dev with blkIdx := s.dev.blkIdx + 1, sv := false, rdy := false, fill := 0 }
          port := .busy ⟨.ok, 0⟩ 0 })

/-- R79, R80, R81, whole: EXPAND writes the 64 words of the presented block's schedule, the first sixteen its words and
the others by the recurrence, and sets `sv`; or it is rejected. -/
def Obligations.ExpandComputesSchedule : Prop :=
  ∀ s : State,
    (s.dev.err ≠ 0 → exec .expand s = .next { s with port := .busy ⟨.eHalted, 0⟩ 0 }) ∧
    (s.dev.err = 0 → s.dev.rdy = false →
      exec .expand s = .next { s with dev := { s.dev with err := 2 }, port := .busy ⟨.eSeq, 0⟩ 0 }) ∧
    (s.dev.err = 0 → s.dev.rdy = true →
      ∃ V : Vector Word 64,
        exec .expand s = .next
          { s with dev := { s.dev with W := V, sv := true }, port := .busy ⟨.ok, 0⟩ 0 } ∧
        (∀ (t : Nat) (h : t < 16), V[t] = blockWord s.dev.buf ⟨t, h⟩) ∧
        (∀ (t : Nat) (_ : 16 ≤ t) (_ : t < 64),
          V[t] = sigma1 V[t - 2] + V[t - 7] + sigma0 V[t - 15] + V[t - 16]))

/-- R73 and R74, whole: RDBW answers the big-endian word of the presented block and changes no field; or it is rejected. -/
def Obligations.RdbwReadsBlockWord : Prop :=
  ∀ (i : Fin 16) (s : State),
    (s.dev.err ≠ 0 → exec (.rdbw i) s = .next { s with port := .busy ⟨.eHalted, 0⟩ 0 }) ∧
    (s.dev.err = 0 → s.dev.rdy = false →
      exec (.rdbw i) s = .next { s with dev := { s.dev with err := 2 }, port := .busy ⟨.eSeq, 0⟩ 0 }) ∧
    (s.dev.err = 0 → s.dev.rdy = true →
      ∃ v : Word, exec (.rdbw i) s = .next { s with port := .busy ⟨.ok, v⟩ 0 } ∧
        v.toNat = s.dev.buf[4 * i.val].toNat * 2 ^ 24 + s.dev.buf[4 * i.val + 1].toNat * 2 ^ 16 +
          s.dev.buf[4 * i.val + 2].toNat * 2 ^ 8 + s.dev.buf[4 * i.val + 3].toNat)

/-- R82, whole: RDW answers the schedule word and changes no field; or it is rejected. -/
def Obligations.RdwReadsScheduleWord : Prop :=
  ∀ (t : Fin 64) (s : State),
    (s.dev.err ≠ 0 → exec (.rdw t) s = .next { s with port := .busy ⟨.eHalted, 0⟩ 0 }) ∧
    (s.dev.err = 0 → s.dev.sv = false →
      exec (.rdw t) s = .next { s with dev := { s.dev with err := 2 }, port := .busy ⟨.eSeq, 0⟩ 0 }) ∧
    (s.dev.err = 0 → s.dev.sv = true →
      exec (.rdw t) s = .next { s with port := .busy ⟨.ok, s.dev.W[t.val]⟩ 0 })

/-- R58 and R88, whole: RDCNT answers the half of the counter its selector names, in every phase but HALTED, and the two
halves make the counter. -/
def Obligations.RdcntReadsCounterHalf : Prop :=
  ∀ s : State,
    (∀ sel, s.dev.err ≠ 0 → exec (.rdcnt sel) s = .next { s with port := .busy ⟨.eHalted, 0⟩ 0 }) ∧
    (s.dev.err = 0 → ∃ b0 b1 k0 k1 : Word,
      exec (.rdcnt .bitLenLow) s = .next { s with port := .busy ⟨.ok, b0⟩ 0 } ∧
      exec (.rdcnt .bitLenHigh) s = .next { s with port := .busy ⟨.ok, b1⟩ 0 } ∧
      exec (.rdcnt .blkIdxLow) s = .next { s with port := .busy ⟨.ok, k0⟩ 0 } ∧
      exec (.rdcnt .blkIdxHigh) s = .next { s with port := .busy ⟨.ok, k1⟩ 0 } ∧
      b1.toNat * 2 ^ 32 + b0.toNat = s.dev.bitLen.toNat ∧
      k1.toNat * 2 ^ 32 + k0.toNat = s.dev.blkIdx.toNat) ∧
    decode 0x08000000 = .ok (.rdcnt .bitLenLow) ∧ decode 0x08000001 = .ok (.rdcnt .bitLenHigh) ∧
    decode 0x08000002 = .ok (.rdcnt .blkIdxLow) ∧ decode 0x08000003 = .ok (.rdcnt .blkIdxHigh)

/-- R86 and R87, whole: RDSTAT answers the STATUS word in every state, the halted one included, with every field in its
bits and every reserved bit 0, and changes no field. -/
def Obligations.RdstatReadsStatus : Prop :=
  ∀ s : State, ∃ v : Word,
    exec .rdstat s = .next { s with port := .busy ⟨.ok, v⟩ 0 } ∧
    v.getLsbD 0 = s.dev.rdy ∧ v.getLsbD 1 = s.dev.sv ∧ v.getLsbD 2 = s.dev.last ∧ v.getLsbD 3 = s.dev.fin ∧
    v.getLsbD 4 = s.dev.lpend ∧ v.getLsbD 5 = s.dev.done ∧ v.extractLsb' 6 2 = 0 ∧
    v.extractLsb' 8 7 = s.dev.fill ∧ v.getLsbD 15 = false ∧ v.extractLsb' 16 4 = s.dev.err ∧
    v.extractLsb' 20 12 = 0

/-- R75 to R78: the rotations and the σ functions bit by bit, and the examples of R77 and R78. -/
def Obligations.SigmaFunctionsByBits : Prop :=
  (∀ (x : Word) (n j : Nat), 1 ≤ n → n ≤ 31 → j < 32 →
    (rotr32 x n).getLsbD j = x.getLsbD ((j + n) % 32)) ∧
  (∀ (x : Word) (j : Nat), j < 32 →
    (sigma0 x).getLsbD j =
      (x.getLsbD ((j + 7) % 32) ^^ x.getLsbD ((j + 18) % 32) ^^ (decide (j + 3 < 32) && x.getLsbD (j + 3)))) ∧
  (∀ (x : Word) (j : Nat), j < 32 →
    (sigma1 x).getLsbD j =
      (x.getLsbD ((j + 17) % 32) ^^ x.getLsbD ((j + 19) % 32) ^^ (decide (j + 10 < 32) && x.getLsbD (j + 10)))) ∧
  sigma0 1 = 0x02004000 ∧ sigma1 1 = 0x0000A000

/-- R81: EXPAND repeated on one block writes the same words; the second leaves the device as the first did. -/
def Obligations.ExpandIsIdempotent : Prop :=
  ∀ s : State, s.dev.err = 0 → s.dev.rdy = true →
    ∃ t u, exec .expand s = .next t ∧ exec .expand t = .next u ∧ u.dev = t.dev

/-- R82, R80: for `t` ≤ 15, RDW of an expanded block does exactly what RDBW does. -/
def Obligations.RdwAgreesWithRdbw : Prop :=
  ∀ (i : Fin 16) (s : State), s.dev.Inv → s.dev.err = 0 → s.dev.sv = true →
    ∃ t, exec (.rdw ⟨i.val, by omega⟩) s = .next t ∧ exec (.rdbw i) s = .next t

/-! ### Errors -/

/-- R96: whatever word runs, if its response is not OK then the state is the state before it but for `err`, which takes
the code if it held none and the code is not E_HALTED, and the data word is 0. -/
def Obligations.RejectionIsPrecise : Prop :=
  ∀ (w : Word) (s t : State) (rsp : Response), runWord w s = .next t → t.answer = some rsp → rsp.code ≠ .ok →
    t = { s with
      dev := { s.dev with
        err := if rsp.code ≠ .eHalted ∧ s.dev.err = 0 then rsp.code.bits else s.dev.err }
      port := .busy ⟨rsp.code, 0⟩ 0 }

/-- R94, R97: in the halted state INIT and RDSTAT execute as usual, an illegal word answers E_ILLEGAL, every other command
answers E_HALTED, and none but INIT changes any field. -/
def Obligations.HaltedDeviceRunsOnlyInitAndRdstat : Prop :=
  ∀ s : State, s.dev.err ≠ 0 →
    (∀ i, i ≠ .init → i ≠ .rdstat → exec i s = .next { s with port := .busy ⟨.eHalted, 0⟩ 0 }) ∧
    (∀ w e, decode w = .error e → runWord w s = .next { s with port := .busy ⟨.eIllegal, 0⟩ 0 }) ∧
    (∃ v, exec .rdstat s = .next { s with port := .busy ⟨.ok, v⟩ 0 } ∧ v.extractLsb' 16 4 = s.dev.err) ∧
    (∃ t, exec .init s = .next t ∧ t.dev.err = 0 ∧ t.answer = some ⟨.ok, 0⟩)

/-- R99: the only ways out of the halted state are INIT and reset: a step that changes anything in a halted device is one
of the two, and it clears `err` and discards the message. -/
def Obligations.OnlyInitOrResetLeavesHalted : Prop :=
  ∀ s t : State, s.dev.err ≠ 0 → step s = .next t → t.dev ≠ s.dev →
    (s.input.rst = true ∨ (s.port = .idle ∧ s.input.cmdValid = true ∧ s.input.cmdData = 0x01000000)) ∧
    t.dev.err = 0 ∧ t.dev.bitLen = 0 ∧ t.dev.fill = 0 ∧ t.dev.rdy = false ∧ t.dev.fin = false

/-- R91, the whole table: with `err` = 0, a command whose precondition fails is rejected with E_SEQ, and one whose
precondition holds is not. -/
def Obligations.SequenceErrorsByPrecondition : Prop :=
  ∀ s : State, s.dev.err = 0 →
    (∀ i, (answerOf (exec i s)).map Response.code = some .eSeq ↔
      match i with
      | .init => False
      | .pushb _ => s.dev.fin = true ∨ s.dev.rdy = true
      | .final => s.dev.fin = true ∨ s.dev.rdy = true
      | .expand => s.dev.rdy = false
      | .next => s.dev.rdy = false
      | .rdbw _ => s.dev.rdy = false
      | .rdw _ => s.dev.sv = false
      | .rdcnt _ => False
      | .rdstat => False)

/-- R98: the checks in their order; the first that fails decides the response, and a command that passes them all is
accepted. -/
def Obligations.ChecksAreMadeInOrder : Prop :=
  ∀ (w : Word) (s : State), s.dev.Inv →
    (answerOf (runWord w s)).map Response.code = some
      (match decode w with
      | .error _ => .eIllegal
      | .ok i =>
        if s.dev.err ≠ 0 ∧ i ≠ .init ∧ i ≠ .rdstat then .eHalted
        else if s.dev.allows i = false then .eSeq
        else
          match i with
          | .pushb _ => if s.dev.bitLen.toNat = 2 ^ 64 - 8 then .eLenOvf else .ok
          | _ => .ok)

/-- R92: the longest message.  When the open message already has 2^61 - 1 bytes, 63 bytes lie in block 2^55 - 1; PUSHB is
rejected with E_LENOVF; and FINAL then NEXT present a last block whose words 14 and 15 are 0xFFFFFFFF and 0xFFFFFFF8. -/
def Obligations.LongestMessageEndsInLengthBlock : Prop :=
  ∀ s : State, s.dev.Inv → s.dev.err = 0 → s.dev.fin = false → s.dev.bitLen.toNat = 2 ^ 64 - 8 →
    s.dev.fill = 63 ∧ s.dev.blkIdx.toNat = 2 ^ 55 - 1 ∧
    (∀ b, (answerOf (exec (.pushb b) s)).map Response.code = some .eLenOvf) ∧
    ∃ t, runAccepted [.final, .next] s = some t ∧ t.dev.last = true ∧
      blockWord t.dev.buf 14 = 0xFFFFFFFF ∧ blockWord t.dev.buf 15 = 0xFFFFFFF8

/-- R93: no word, in any state, is answered with E_INVARIANT or leaves its code in an `err` that did not hold it. -/
def Obligations.InvariantErrorNeverAnswered : Prop :=
  ∀ (w : Word) (s t : State), runWord w s = .next t →
    t.answer.map Response.code ≠ some .eInvariant ∧ (t.dev.err = 5 → s.dev.err = 5)

/-- R71, R108: from a state that meets the invariant no command and no step stops the machine. -/
def Obligations.NoStepStopsTheMachine : Prop :=
  ∀ s : State, s.dev.Inv → (∃ t, step s = .next t) ∧ ∀ w, ∃ t, runWord w s = .next t

/-! ### Invariants -/

/-- The reset state meets the invariant (R109, R27). -/
def Obligations.ResetMeetsInvariant : Prop :=
  State.reset.Inv

/-- Every step keeps the invariant of R27, from every state that meets it and whatever the host drives. -/
def Obligations.StepKeepsInvariant : Prop :=
  ∀ s t : State, s.Inv → step s = .next t → t.Inv

/-- R15, R16: the counters never wrap: `bitLen` stays at or below 2^64 - 8 and `blkIdx` at or below 2^55 + 1, and no
command but INIT lowers either or raises it by more than 8 or 1. -/
def Obligations.CountersNeverWrap : Prop :=
  ∀ (i : Instr) (s t : State), s.dev.Inv → exec i s = .next t →
    t.dev.bitLen.toNat ≤ 2 ^ 64 - 8 ∧ t.dev.blkIdx.toNat ≤ 2 ^ 55 + 1 ∧
    (i ≠ .init →
      s.dev.bitLen.toNat ≤ t.dev.bitLen.toNat ∧ t.dev.bitLen.toNat ≤ s.dev.bitLen.toNat + 8 ∧
      s.dev.blkIdx.toNat ≤ t.dev.blkIdx.toNat ∧ t.dev.blkIdx.toNat ≤ s.dev.blkIdx.toNat + 1)

/-- R27, R31: the contents of `buf` and `W` that no command has written for the current block are never observed: two
devices that differ in nothing else answer every word alike, and still differ in nothing else afterwards. -/
def Obligations.UnwrittenContentsNeverObserved : Prop :=
  ∀ (w : Word) (s r s' : State), s.dev.Inv → s.dev.SameVisible r.dev → runWord w s = .next s' →
    ∃ r', runWord w r = .next r' ∧ r'.answer = s'.answer ∧ s'.dev.SameVisible r'.dev

/-! ### The padded message -/

/-- R65, whole: the padded message, its length and number of blocks, its marker, its zeros and its length field. -/
def Obligations.PaddedMessageShape : Prop :=
  ∀ M : List Byte, M.length ≤ 2 ^ 61 - 1 →
    (M.length + 1 + padZeros M) % 64 = 56 ∧ padZeros M < 64 ∧
    (pad M).length = 64 * blockCount M ∧ M.length + 9 ≤ (pad M).length ∧ 64 ≤ (pad M).length ∧
    (pad M).take M.length = M ∧ (pad M)[M.length]? = some 0x80 ∧
    (∀ k, M.length < k → k + 8 < (pad M).length → (pad M)[k]? = some 0) ∧
    ((pad M).drop ((pad M).length - 8)).foldl (fun n b => n * 256 + b.toNat) 0 = 8 * M.length ∧
    (M.length ≤ 55 → blockCount M = 1) ∧ (56 ≤ M.length → M.length ≤ 119 → blockCount M = 2)

/-- R64, R66: every command keeps the device holding the message: an accepted PUSHB appends its byte, an accepted INIT
starts an empty message, nothing else changes it, and the presented blocks are those of its padding. -/
def Obligations.CommandsTrackTheMessage : Prop :=
  ∀ (i : Instr) (s t : State) (M : List Byte), s.dev.Inv → s.dev.Holds M → exec i s = .next t →
    ∃ rsp, t.answer = some rsp ∧ t.dev.Holds (messageAfter i rsp.code M)

/-- R66: between an INIT and `done`, with no command rejected, the device presents exactly the `N(M)` blocks of the padded
message, once each, in order, with their index, and `last` on the last alone. -/
def Obligations.EveryPaddedBlockPresentedInOrder : Prop :=
  ∀ (cmds : List Instr) (s t : State), s.dev.Inv → s.dev.fin = false → s.dev.bitLen = 0 →
    (∀ i ∈ cmds, i ≠ .init) → runAccepted cmds s = some t → t.dev.done = true →
    presentations cmds s =
      (List.range (blockCount (pushedBytes cmds))).map fun j =>
        ⟨j, decide (j + 1 = blockCount (pushedBytes cmds)), paddedBlock (pushedBytes cmds) j⟩

/-- R71: no padding step can fail: for every message the device accepts, FINAL and the one or two NEXTs after it succeed
and end the message, and its length is unchanged. -/
def Obligations.FinalAndNextAlwaysFinish : Prop :=
  ∀ s : State, s.dev.Inv → s.dev.err = 0 → s.dev.fin = false → s.dev.rdy = false →
    ∃ t, runAccepted (.final :: List.replicate (if s.dev.fill.toNat ≤ 55 then 1 else 2) .next) s = some t ∧
      t.dev.done = true ∧ t.dev.err = 0 ∧ t.dev.bitLen = s.dev.bitLen ∧
      t.dev.blkIdx.toNat = (s.dev.messageBytes + 8) / 64 + 1

/-- R111, R116: from every state that meets the invariant, the halted ones included, the command sequence of R111 for a
message is a clean run, whatever reads the host makes of each block; it presents exactly the blocks of that message's
padding, in order; and its result is those blocks, each with the schedule words the host asked for. -/
def Obligations.EveryMessageHasACleanRun : Prop :=
  ∀ (visit : Nat → BlockVisit) (M : List Byte) (s : State), s.dev.Inv → M.length ≤ 2 ^ 61 - 1 →
    CleanRun ((hostProgram visit M).map encode) s ∧
    presentations (hostProgram visit M) s =
      ((List.range (blockCount M)).map fun j => ⟨j, decide (j + 1 = blockCount M), paddedBlock M j⟩) ∧
    (runResult ((hostProgram visit M).map encode) s).blocks =
      (List.range (blockCount M)).map fun j =>
        ⟨⟨j, decide (j + 1 = blockCount M), paddedBlock M j⟩,
          ⟨(visit j).scheduleReads.isSome,
            ((visit j).scheduleReads.getD []).map fun t => (t, (scheduleOf (paddedBlock M j))[t.val])⟩⟩

/-! ### Frames -/

/-- R13, the column 'written by': each field of the device changes only in the commands that write it, `err` only by a
rejection or INIT; and no command touches the host's inputs, the sampled word or the model's counter. -/
def Obligations.FieldsWrittenByTheirOwners : Prop :=
  ∀ (i : Instr) (s t : State), exec i s = .next t →
    t.cmd = s.cmd ∧ t.pins = s.pins ∧ t.draws = s.draws ∧
    (t.dev.buf ≠ s.dev.buf → (∃ b, i = .pushb b) ∨ i = .final ∨ i = .next) ∧
    (t.dev.bitLen ≠ s.dev.bitLen → (∃ b, i = .pushb b) ∨ i = .init) ∧
    (t.dev.blkIdx ≠ s.dev.blkIdx → i = .next ∨ i = .init) ∧
    (t.dev.W ≠ s.dev.W → i = .expand) ∧
    (t.dev.fill ≠ s.dev.fill → (∃ b, i = .pushb b) ∨ i = .final ∨ i = .next ∨ i = .init) ∧
    (t.dev.rdy ≠ s.dev.rdy → (∃ b, i = .pushb b) ∨ i = .final ∨ i = .next ∨ i = .init) ∧
    (t.dev.sv ≠ s.dev.sv → i = .expand ∨ i = .next ∨ i = .init) ∧
    (t.dev.last ≠ s.dev.last → i = .final ∨ i = .next ∨ i = .init) ∧
    (t.dev.fin ≠ s.dev.fin → i = .final ∨ i = .init) ∧
    (t.dev.lpend ≠ s.dev.lpend → i = .final ∨ i = .next ∨ i = .init) ∧
    (t.dev.done ≠ s.dev.done → i = .next ∨ i = .init) ∧
    (t.dev.err ≠ s.dev.err → t.answer.map Response.code ≠ some .ok ∨ i = .init)

/-- R36: a read command that is accepted changes no field of the device, and repeated it answers the same. -/
def Obligations.AcceptedReadsChangeNothing : Prop :=
  ∀ (i : Instr) (s t : State) (v : Word), isRead i = true → exec i s = .next t → t.answer = some ⟨.ok, v⟩ →
    t.dev = s.dev ∧ exec i t = .next t

/-- R24: once `done` is 1, only INIT, RDCNT and RDSTAT do anything: every other command is rejected with E_SEQ, and no
command but INIT clears `done`. -/
def Obligations.DoneEndsTheMessage : Prop :=
  ∀ s : State, s.dev.Inv → s.dev.done = true → s.dev.err = 0 →
    ∀ i, i ≠ .init → ∃ t rsp, exec i s = .next t ∧ t.answer = some rsp ∧ t.dev.done = true ∧
      match i with
      | .rdstat => rsp.code = .ok ∧ t.dev = s.dev
      | .rdcnt _ => rsp.code = .ok ∧ t.dev = s.dev
      | _ => rsp.code = .eSeq ∧ t.dev = { s.dev with err := 2 }

/-- R22, R64: once FINAL is accepted the message is closed: no command but INIT changes its length or reopens it. -/
def Obligations.MessageClosedByFinal : Prop :=
  ∀ (i : Instr) (s t : State), s.dev.fin = true → i ≠ .init → exec i s = .next t →
    t.dev.fin = true ∧ t.dev.bitLen = s.dev.bitLen

/-- R52: the data word is the value read for an accepted read command, and 0 for every other accepted command and for
every rejected word. -/
def Obligations.ResponseDataWord : Prop :=
  ∀ (w : Word) (s t : State) (rsp : Response), runWord w s = .next t → t.answer = some rsp →
    rsp.data =
      if rsp.code = .ok then
        match decode w with
        | .ok (.rdbw i) => blockWord s.dev.buf i
        | .ok (.rdw k) => s.dev.W[k.val]
        | .ok (.rdcnt .bitLenLow) => BitVec.ofNat 32 s.dev.bitLen.toNat
        | .ok (.rdcnt .bitLenHigh) => BitVec.ofNat 32 (s.dev.bitLen.toNat / 2 ^ 32)
        | .ok (.rdcnt .blkIdxLow) => BitVec.ofNat 32 s.dev.blkIdx.toNat
        | .ok (.rdcnt .blkIdxHigh) => BitVec.ofNat 32 (s.dev.blkIdx.toNat / 2 ^ 32)
        | .ok .rdstat => s.dev.status
        | _ => 0
      else 0

/-- R25, R96: `err` records any rejection: a run of words without INIT, from `err` = 0, ends with `err` = 0 exactly when
every response was OK. -/
def Obligations.ErrorRecordsAnyRejection : Prop :=
  ∀ (ws : List Word) (s t : State), s.dev.err = 0 → (∀ w ∈ ws, w ≠ 0x01000000) → afterWords ws s = some t →
    (t.dev.err = 0 ↔ ∀ p ∈ transcript ws s, p.2.code = .ok)

/-- R41, R42: every word the host sends, legal or not, is answered, once and in order. -/
def Obligations.EveryWordIsAnswered : Prop :=
  ∀ (ws : List Word) (s : State), s.dev.Inv → (transcript ws s).map Prod.fst = ws ∧ (afterWords ws s).isSome = true

/-- R26: the phases: INIT enters ABSORB, every other command keeps the phase or moves it from ABSORB to PAD, from PAD to
DONE, or into HALTED, which only INIT leaves. -/
def Obligations.PhasesAdvanceInOrder : Prop :=
  ∀ (i : Instr) (s t : State), s.dev.Inv → exec i s = .next t →
    (i = .init → t.dev.phase = .absorb) ∧
    (i ≠ .init → t.dev.phase = s.dev.phase ∨ (s.dev.phase = .absorb ∧ t.dev.phase = .pad ∧ i = .final) ∨
      (s.dev.phase = .pad ∧ t.dev.phase = .done ∧ i = .next) ∨ t.dev.phase = .halted)

/-! ### Presentations, the result of a run, and the response lines -/

/-- R66: a command presents a block exactly when it is an accepted PUSHB or FINAL that takes `rdy` from 0 to 1, or an
accepted NEXT that builds the length-only block; a rejected command presents nothing. -/
def Obligations.PresentationsAreThoseOfTheRule : Prop :=
  ∀ (i : Instr) (s t : State), exec i s = .next t →
    (presents i s.dev t.dev = true ↔
      t.answer.map Response.code = some .ok ∧
        ((((∃ b, i = .pushb b) ∨ i = .final) ∧ s.dev.rdy = false ∧ t.dev.rdy = true) ∨
          (i = .next ∧ s.dev.lpend = true ∧ t.dev.lpend = false ∧ t.dev.rdy = true)))

/-- R66: `buf` keeps the bytes of a presented block, with its index and `last`, until the NEXT that releases it, or an
INIT: every other command, and a rejected NEXT, leaves the block presented as it was. -/
def Obligations.PresentedBlockIsKept : Prop :=
  ∀ (i : Instr) (s t : State), s.dev.rdy = true → i ≠ .init → exec i s = .next t →
    (i = .next → t.answer.map Response.code ≠ some .ok) →
    t.dev.rdy = true ∧ t.dev.presentation = s.dev.presentation

/-- R116: the blocks in the result of a run are those the run presents, in order. -/
def Obligations.RunResultShowsThePresentations : Prop :=
  ∀ (cmds : List Instr) (s : State),
    (runResult (cmds.map encode) s).blocks.map ShownBlock.shown = presentations cmds s

/-- R116, R17: in the result of any run of words from a state that meets the invariant, a block of which the host read
schedule words is one it expanded, and each word read is the word of that block's own schedule. -/
def Obligations.ScheduleWordsReadAreOfTheirBlock : Prop :=
  ∀ (ws : List Word) (s : State), s.dev.Inv →
    ∀ b ∈ (runResult ws s).blocks, ∀ p ∈ b.use.words,
      b.use.expanded = true ∧ p.2 = (scheduleOf b.shown.block)[p.1.val]

/-- R39, R40, R52, R53: while a response is offered `rsp_valid` is 1 and the lines carry its code, as the number R53 gives
that code, and its data word; while none is offered `rsp_valid` is 0. -/
def Obligations.ResponseLinesCarryTheResponse : Prop :=
  (∀ (s : State) (rsp : Response), s.port = .offering rsp →
    s.rspValid = true ∧ s.rspCode = some rsp.code.bits ∧ s.rspData = some rsp.data) ∧
  (∀ s : State, (∀ rsp, s.port ≠ .offering rsp) → s.rspValid = false) ∧
  RspCode.ok.bits.toNat = 0 ∧ RspCode.eIllegal.bits.toNat = 1 ∧ RspCode.eSeq.bits.toNat = 2 ∧
  RspCode.eLenOvf.bits.toNat = 3 ∧ RspCode.eHalted.bits.toNat = 4 ∧ RspCode.eInvariant.bits.toNat = 5
end

