-- ==== Sys2Proof/Laws/State.lean ====
section
/-! SUPPORT. What each update of the state and of the device leaves in each field, by definition. -/

namespace Sys2Proof.Machine

@[simp] theorem State.respond_dev (s : State) (c : RspCode) (v : Word) : (s.respond c v).dev = s.dev := rfl
@[simp] theorem State.respond_cmd (s : State) (c : RspCode) (v : Word) : (s.respond c v).cmd = s.cmd := rfl
@[simp] theorem State.respond_port (s : State) (c : RspCode) (v : Word) : (s.respond c v).port = .busy ⟨c, v⟩ 0 := rfl
@[simp] theorem State.respond_pins (s : State) (c : RspCode) (v : Word) : (s.respond c v).pins = s.pins := rfl
@[simp] theorem State.respond_draws (s : State) (c : RspCode) (v : Word) : (s.respond c v).draws = s.draws := rfl

@[simp] theorem State.raise_dev (s : State) (c : RspCode) : (s.raise c).dev = s.dev.recordError c := rfl
@[simp] theorem State.raise_cmd (s : State) (c : RspCode) : (s.raise c).cmd = s.cmd := rfl
@[simp] theorem State.raise_port (s : State) (c : RspCode) : (s.raise c).port = .busy ⟨c, 0⟩ 0 := rfl
@[simp] theorem State.raise_pins (s : State) (c : RspCode) : (s.raise c).pins = s.pins := rfl
@[simp] theorem State.raise_draws (s : State) (c : RspCode) : (s.raise c).draws = s.draws := rfl

@[simp] theorem State.sampled_dev (s : State) : (s.sampled).dev = s.dev := rfl
@[simp] theorem State.sampled_cmd (s : State) : (s.sampled).cmd = s.cmd := rfl
@[simp] theorem State.sampled_port (s : State) : (s.sampled).port = s.port := rfl
@[simp] theorem State.sampled_pins (s : State) : (s.sampled).pins = s.pins.tail := rfl
@[simp] theorem State.sampled_draws (s : State) : (s.sampled).draws = s.draws := rfl

@[simp] theorem State.latchCommand_dev (s : State) (w : Word) : (s.latchCommand w).dev = s.dev := rfl
@[simp] theorem State.latchCommand_cmd (s : State) (w : Word) : (s.latchCommand w).cmd = w := rfl
@[simp] theorem State.latchCommand_port (s : State) (w : Word) : (s.latchCommand w).port = s.port := rfl
@[simp] theorem State.latchCommand_pins (s : State) (w : Word) : (s.latchCommand w).pins = s.pins := rfl
@[simp] theorem State.latchCommand_draws (s : State) (w : Word) : (s.latchCommand w).draws = s.draws := rfl

@[simp] theorem State.resetEdge_dev (s : State) : (s.resetEdge).dev = Device.reset := rfl
@[simp] theorem State.resetEdge_cmd (s : State) : (s.resetEdge).cmd = 0 := rfl
@[simp] theorem State.resetEdge_port (s : State) : (s.resetEdge).port = .idle := rfl
@[simp] theorem State.resetEdge_pins (s : State) : (s.resetEdge).pins = s.pins := rfl
@[simp] theorem State.resetEdge_draws (s : State) : (s.resetEdge).draws = s.draws := rfl

@[simp] theorem State.waitResponse_dev (s : State) (r : Response) (n : Nat) : (s.waitResponse r n).dev = s.dev := rfl
@[simp] theorem State.waitResponse_cmd (s : State) (r : Response) (n : Nat) : (s.waitResponse r n).cmd = s.cmd := rfl
@[simp] theorem State.waitResponse_port (s : State) (r : Response) (n : Nat) : (s.waitResponse r n).port = if s.raisesValid n then .offering r else .busy r (n + 1) := rfl
@[simp] theorem State.waitResponse_pins (s : State) (r : Response) (n : Nat) : (s.waitResponse r n).pins = s.pins := rfl
@[simp] theorem State.waitResponse_draws (s : State) (r : Response) (n : Nat) : (s.waitResponse r n).draws = s.draws + 1 := rfl

@[simp] theorem State.offerWord_dev (s : State) (w : Word) : (s.offerWord w).dev = s.dev := rfl
@[simp] theorem State.offerWord_cmd (s : State) (w : Word) : (s.offerWord w).cmd = s.cmd := rfl
@[simp] theorem State.offerWord_port (s : State) (w : Word) : (s.offerWord w).port = .idle := rfl
@[simp] theorem State.offerWord_pins (s : State) (w : Word) : (s.offerWord w).pins = ⟨false, true, w, false⟩ :: s.pins := rfl
@[simp] theorem State.offerWord_draws (s : State) (w : Word) : (s.offerWord w).draws = s.draws := rfl

@[simp] theorem State.offerResponse_dev (s : State) (b : Bool) : (s.offerResponse b).dev = s.dev := by
  cases b <;> rfl
@[simp] theorem State.offerResponse_cmd (s : State) (b : Bool) : (s.offerResponse b).cmd = s.cmd := by
  cases b <;> rfl
@[simp] theorem State.offerResponse_pins (s : State) (b : Bool) : (s.offerResponse b).pins = s.pins := by
  cases b <;> rfl
@[simp] theorem State.offerResponse_draws (s : State) (b : Bool) : (s.offerResponse b).draws = s.draws := by
  cases b <;> rfl
@[simp] theorem State.offerResponse_port (s : State) (b : Bool) :
    (s.offerResponse b).port = if b then .idle else s.port := by
  cases b <;> rfl

@[simp] theorem Device.clearMessage_buf (d : Device) : (d.clearMessage).buf = d.buf := rfl
@[simp] theorem Device.clearMessage_bitLen (d : Device) : (d.clearMessage).bitLen = 0 := rfl
@[simp] theorem Device.clearMessage_blkIdx (d : Device) : (d.clearMessage).blkIdx = 0 := rfl
@[simp] theorem Device.clearMessage_W (d : Device) : (d.clearMessage).W = d.W := rfl
@[simp] theorem Device.clearMessage_fill (d : Device) : (d.clearMessage).fill = 0 := rfl
@[simp] theorem Device.clearMessage_rdy (d : Device) : (d.clearMessage).rdy = false := rfl
@[simp] theorem Device.clearMessage_sv (d : Device) : (d.clearMessage).sv = false := rfl
@[simp] theorem Device.clearMessage_last (d : Device) : (d.clearMessage).last = false := rfl
@[simp] theorem Device.clearMessage_fin (d : Device) : (d.clearMessage).fin = false := rfl
@[simp] theorem Device.clearMessage_lpend (d : Device) : (d.clearMessage).lpend = false := rfl
@[simp] theorem Device.clearMessage_done (d : Device) : (d.clearMessage).done = false := rfl
@[simp] theorem Device.clearMessage_err (d : Device) : (d.clearMessage).err = 0 := rfl

@[simp] theorem Device.pushByte_buf (d : Device) (b : Byte) : (d.pushByte b).buf = d.buf.setIfInBounds d.fill.toNat b := rfl
@[simp] theorem Device.pushByte_bitLen (d : Device) (b : Byte) : (d.pushByte b).bitLen = d.bitLen + 8 := rfl
@[simp] theorem Device.pushByte_blkIdx (d : Device) (b : Byte) : (d.pushByte b).blkIdx = d.blkIdx := rfl
@[simp] theorem Device.pushByte_W (d : Device) (b : Byte) : (d.pushByte b).W = d.W := rfl
@[simp] theorem Device.pushByte_fill (d : Device) (b : Byte) : (d.pushByte b).fill = d.fill + 1 := rfl
@[simp] theorem Device.pushByte_rdy (d : Device) (b : Byte) : (d.pushByte b).rdy = (d.rdy || d.fill + 1 == 64) := rfl
@[simp] theorem Device.pushByte_sv (d : Device) (b : Byte) : (d.pushByte b).sv = d.sv := rfl
@[simp] theorem Device.pushByte_last (d : Device) (b : Byte) : (d.pushByte b).last = d.last := rfl
@[simp] theorem Device.pushByte_fin (d : Device) (b : Byte) : (d.pushByte b).fin = d.fin := rfl
@[simp] theorem Device.pushByte_lpend (d : Device) (b : Byte) : (d.pushByte b).lpend = d.lpend := rfl
@[simp] theorem Device.pushByte_done (d : Device) (b : Byte) : (d.pushByte b).done = d.done := rfl
@[simp] theorem Device.pushByte_err (d : Device) (b : Byte) : (d.pushByte b).err = d.err := rfl

@[simp] theorem Device.closeMessage_buf (d : Device) : (d.closeMessage).buf = finalBlock d.buf d.fill.toNat d.bitLen := rfl
@[simp] theorem Device.closeMessage_bitLen (d : Device) : (d.closeMessage).bitLen = d.bitLen := rfl
@[simp] theorem Device.closeMessage_blkIdx (d : Device) : (d.closeMessage).blkIdx = d.blkIdx := rfl
@[simp] theorem Device.closeMessage_W (d : Device) : (d.closeMessage).W = d.W := rfl
@[simp] theorem Device.closeMessage_fill (d : Device) : (d.closeMessage).fill = 64 := rfl
@[simp] theorem Device.closeMessage_rdy (d : Device) : (d.closeMessage).rdy = true := rfl
@[simp] theorem Device.closeMessage_sv (d : Device) : (d.closeMessage).sv = d.sv := rfl
@[simp] theorem Device.closeMessage_last (d : Device) : (d.closeMessage).last = decide (d.fill.toNat ≤ 55) := rfl
@[simp] theorem Device.closeMessage_fin (d : Device) : (d.closeMessage).fin = true := rfl
@[simp] theorem Device.closeMessage_lpend (d : Device) : (d.closeMessage).lpend = !decide (d.fill.toNat ≤ 55) := rfl
@[simp] theorem Device.closeMessage_done (d : Device) : (d.closeMessage).done = d.done := rfl
@[simp] theorem Device.closeMessage_err (d : Device) : (d.closeMessage).err = d.err := rfl

@[simp] theorem Device.expandBlock_buf (d : Device) : (d.expandBlock).buf = d.buf := rfl
@[simp] theorem Device.expandBlock_bitLen (d : Device) : (d.expandBlock).bitLen = d.bitLen := rfl
@[simp] theorem Device.expandBlock_blkIdx (d : Device) : (d.expandBlock).blkIdx = d.blkIdx := rfl
@[simp] theorem Device.expandBlock_W (d : Device) : (d.expandBlock).W = expand (blockWords d.buf) := rfl
@[simp] theorem Device.expandBlock_fill (d : Device) : (d.expandBlock).fill = d.fill := rfl
@[simp] theorem Device.expandBlock_rdy (d : Device) : (d.expandBlock).rdy = d.rdy := rfl
@[simp] theorem Device.expandBlock_sv (d : Device) : (d.expandBlock).sv = true := rfl
@[simp] theorem Device.expandBlock_last (d : Device) : (d.expandBlock).last = d.last := rfl
@[simp] theorem Device.expandBlock_fin (d : Device) : (d.expandBlock).fin = d.fin := rfl
@[simp] theorem Device.expandBlock_lpend (d : Device) : (d.expandBlock).lpend = d.lpend := rfl
@[simp] theorem Device.expandBlock_done (d : Device) : (d.expandBlock).done = d.done := rfl
@[simp] theorem Device.expandBlock_err (d : Device) : (d.expandBlock).err = d.err := rfl

@[simp] theorem Device.reset_buf  : (Device.reset).buf = Vector.replicate 64 0 := rfl
@[simp] theorem Device.reset_bitLen  : (Device.reset).bitLen = 0 := rfl
@[simp] theorem Device.reset_blkIdx  : (Device.reset).blkIdx = 0 := rfl
@[simp] theorem Device.reset_W  : (Device.reset).W = Vector.replicate 64 0 := rfl
@[simp] theorem Device.reset_fill  : (Device.reset).fill = 0 := rfl
@[simp] theorem Device.reset_rdy  : (Device.reset).rdy = false := rfl
@[simp] theorem Device.reset_sv  : (Device.reset).sv = false := rfl
@[simp] theorem Device.reset_last  : (Device.reset).last = false := rfl
@[simp] theorem Device.reset_fin  : (Device.reset).fin = false := rfl
@[simp] theorem Device.reset_lpend  : (Device.reset).lpend = false := rfl
@[simp] theorem Device.reset_done  : (Device.reset).done = false := rfl
@[simp] theorem Device.reset_err  : (Device.reset).err = 0 := rfl

@[simp] theorem Device.recordError_buf (d : Device) (c : RspCode) : (d.recordError c).buf = d.buf := by
  unfold Device.recordError; split <;> rfl
@[simp] theorem Device.recordError_bitLen (d : Device) (c : RspCode) : (d.recordError c).bitLen = d.bitLen := by
  unfold Device.recordError; split <;> rfl
@[simp] theorem Device.recordError_blkIdx (d : Device) (c : RspCode) : (d.recordError c).blkIdx = d.blkIdx := by
  unfold Device.recordError; split <;> rfl
@[simp] theorem Device.recordError_W (d : Device) (c : RspCode) : (d.recordError c).W = d.W := by
  unfold Device.recordError; split <;> rfl
@[simp] theorem Device.recordError_fill (d : Device) (c : RspCode) : (d.recordError c).fill = d.fill := by
  unfold Device.recordError; split <;> rfl
@[simp] theorem Device.recordError_rdy (d : Device) (c : RspCode) : (d.recordError c).rdy = d.rdy := by
  unfold Device.recordError; split <;> rfl
@[simp] theorem Device.recordError_sv (d : Device) (c : RspCode) : (d.recordError c).sv = d.sv := by
  unfold Device.recordError; split <;> rfl
@[simp] theorem Device.recordError_last (d : Device) (c : RspCode) : (d.recordError c).last = d.last := by
  unfold Device.recordError; split <;> rfl
@[simp] theorem Device.recordError_fin (d : Device) (c : RspCode) : (d.recordError c).fin = d.fin := by
  unfold Device.recordError; split <;> rfl
@[simp] theorem Device.recordError_lpend (d : Device) (c : RspCode) : (d.recordError c).lpend = d.lpend := by
  unfold Device.recordError; split <;> rfl
@[simp] theorem Device.recordError_done (d : Device) (c : RspCode) : (d.recordError c).done = d.done := by
  unfold Device.recordError; split <;> rfl

@[simp] theorem Device.recordError_err (d : Device) (c : RspCode) :
    (d.recordError c).err = if c ≠ .eHalted ∧ d.err = 0 then c.bits else d.err := by
  unfold Device.recordError; split <;> rfl

/-- NEXT always advances the index and forgets the schedule, and never touches these fields (R69). -/
@[simp] theorem Device.release_blkIdx (d : Device) : d.release.blkIdx = d.blkIdx + 1 := by
  unfold Device.release; split <;> [rfl; split <;> rfl]
@[simp] theorem Device.release_sv (d : Device) : d.release.sv = false := by
  unfold Device.release; split <;> [rfl; split <;> rfl]
@[simp] theorem Device.release_lpend (d : Device) : d.release.lpend = false := by
  unfold Device.release; split <;> [rfl; (split <;> simpa using ‹¬d.lpend = true›)]
@[simp] theorem Device.release_bitLen (d : Device) : d.release.bitLen = d.bitLen := by
  unfold Device.release; split <;> [rfl; split <;> rfl]
@[simp] theorem Device.release_W (d : Device) : d.release.W = d.W := by
  unfold Device.release; split <;> [rfl; split <;> rfl]
@[simp] theorem Device.release_fin (d : Device) : d.release.fin = d.fin := by
  unfold Device.release; split <;> [rfl; split <;> rfl]
@[simp] theorem Device.release_err (d : Device) : d.release.err = d.err := by
  unfold Device.release; split <;> [rfl; split <;> rfl]

/-- The length-only block, when one is pending (R69). -/
theorem Device.release_of_lpend (d : Device) (h : d.lpend = true) :
    d.release = { d with
      blkIdx := d.blkIdx + 1, sv := false
      buf := lengthBlock d.bitLen, lpend := false, last := true, rdy := true, fill := 64 } := by
  simp [Device.release, h]

/-- The end of the message, when the last block is released (R69). -/
theorem Device.release_of_last (d : Device) (h : d.lpend = false) (h' : d.last = true) :
    d.release = { d with
      blkIdx := d.blkIdx + 1, sv := false, last := false, rdy := false, fill := 0, done := true } := by
  simp [Device.release, h, h']

/-- Room for the next message block, otherwise (R69). -/
theorem Device.release_of_open (d : Device) (h : d.lpend = false) (h' : d.last = false) :
    d.release = { d with blkIdx := d.blkIdx + 1, sv := false, rdy := false, fill := 0 } := by
  simp [Device.release, h, h']

end Sys2Proof.Machine
end

