-- ==== Sys2Proof/Laws/Ops.lean ====
section
/-! SUPPORT. One lemma per shared operation, saying once everything it can do. -/

namespace Sys2Proof.Machine

/-- A rejection changes `err` at most, and answers its code with the data word 0 (R96). -/
theorem reject_eq (c : RspCode) (s : State) :
    reject c s = .next { s with dev := s.dev.recordError c, port := .busy ⟨c, 0⟩ 0 } := rfl

/-- An acceptance replaces the device and answers OK (R11). -/
theorem accept_eq (d : Device) (v : Word) (s : State) :
    accept d v s = .next { s with dev := d, port := .busy ⟨.ok, v⟩ 0 } := rfl

theorem recordError_of_err (d : Device) (c : RspCode) (h : d.err ≠ 0) : d.recordError c = d :=
  if_neg fun k => h k.2

theorem recordError_halted (d : Device) : d.recordError .eHalted = d := by
  simp [Device.recordError]

theorem recordError_first (d : Device) (c : RspCode) (h : d.err = 0) (hc : c ≠ .eHalted) :
    d.recordError c = { d with err := c.bits } := by
  simp [Device.recordError, h, hc]

/-- Checks 2 and 3 of R98: which of the three a guarded command does. -/
theorem guarded_cases (allowed : Bool) (s : State) (run : Result) :
    (s.dev.err ≠ 0 ∧ guarded allowed s run = reject .eHalted s) ∨
    (s.dev.err = 0 ∧ allowed = false ∧ guarded allowed s run = reject .eSeq s) ∨
    (s.dev.err = 0 ∧ allowed = true ∧ guarded allowed s run = run) := by
  by_cases h : s.dev.err = 0
  · cases allowed <;> simp [guarded, h]
  · exact .inl ⟨h, if_pos h⟩

theorem guarded_halted {allowed : Bool} {s : State} {run : Result} (h : s.dev.err ≠ 0) :
    guarded allowed s run = reject .eHalted s :=
  if_pos h

theorem guarded_denied {s : State} {run : Result} (h : s.dev.err = 0) :
    guarded false s run = reject .eSeq s := by
  simp [guarded, h]

theorem guarded_allowed {s : State} {run : Result} (h : s.dev.err = 0) : guarded true s run = run := by
  simp [guarded, h]

/-- The bytes of the block FINAL leaves (R68). -/
@[simp] theorem finalBlock_getElem (buf : Vector Byte 64) (r : Nat) (len : DWord) (k : Nat) (h : k < 64) :
    (finalBlock buf r len)[k] =
      if k < r then buf[k] else if k = r then Config.padMarker
      else if r ≤ 55 ∧ 56 ≤ k then be64Byte len (k - 56) else 0 := by
  simp [finalBlock]

/-- The bytes of the length-only block (R69). -/
@[simp] theorem lengthBlock_getElem (len : DWord) (k : Nat) (h : k < 64) :
    (lengthBlock len)[k] = if 56 ≤ k then be64Byte len (k - 56) else 0 := by
  simp [lengthBlock]

/-- The words of a block (R73). -/
@[simp] theorem blockWords_getElem (buf : Vector Byte 64) (i : Nat) (h : i < 16) :
    (blockWords buf)[i] = blockWord buf ⟨i, h⟩ := by
  simp [blockWords]

/-- A schedule before its first step holds the block's words first (R80). -/
theorem scheduleSeed_getElem (w : Vector Word 16) (t : Nat) (h : t < 16) :
    (scheduleSeed w)[t]'(by omega) = w[t] := by
  simp [scheduleSeed, h]

/-- A step of the recurrence writes its own word (R79). -/
@[simp] theorem scheduleStep_getElem_self (W : Vector Word 64) (i : Fin 48) :
    (scheduleStep W i)[i.val + 16] =
      sigma1 W[i.val + 14] + W[i.val + 9] + sigma0 W[i.val + 1] + W[i.val] := by
  simp [scheduleStep]

/-- A step of the recurrence leaves every other word alone. -/
theorem scheduleStep_getElem_other (W : Vector Word 64) (i : Fin 48) (t : Nat) (h : t < 64)
    (hne : t ≠ i.val + 16) : (scheduleStep W i)[t] = W[t] := by
  simp only [scheduleStep]
  exact Vector.getElem_set_ne (by omega) h (by omega)

end Sys2Proof.Machine
end

