-- ==== Sys2Proof/Laws/Exec.lean ====
section
/-! SUPPORT. What a command and an edge can do, said once: every rejection has one form, and every acceptance is the
command's effect on the device with its data word. -/

namespace Sys2Proof.Machine

/-- `bitLen`'s limit is the bit length of the longest message (R7, R15). -/
theorem maxBitLen_toNat : Config.maxBitLen.toNat = 8 * Config.maxMessageBytes := by decide

/-- The longest message has `MAX_BLOCKS` blocks (R7, R65). -/
theorem blockCount_longest (M : List Byte) (h : M.length = Config.maxMessageBytes) :
    blockCount M = Config.maxBlocks := by
  simp [blockCount, h, Config.maxMessageBytes, Config.maxBlocks]

/-- The device an accepted command leaves (R67 to R69, R74, R81, R82, R85, R86, R88). -/
def Device.effect (d : Device) : Instr → Device
  | .init => d.clearMessage
  | .pushb b => d.pushByte b
  | .final => d.closeMessage
  | .expand => d.expandBlock
  | .next => d.release
  | .rdbw _ => d
  | .rdw _ => d
  | .rdcnt _ => d
  | .rdstat => d

/-- The data word of an accepted command (R52). -/
def Device.reads (d : Device) : Instr → Word
  | .init => 0
  | .pushb _ => 0
  | .final => 0
  | .expand => 0
  | .next => 0
  | .rdbw i => blockWord d.buf i
  | .rdw t => d.scheduleWord t
  | .rdcnt sel => d.counterHalf sel
  | .rdstat => d.status

/-- Why a command is rejected: the checks of R98 after decoding. -/
inductive Rejects (i : Instr) (d : Device) : RspCode → Prop where
  | halted : d.err ≠ 0 → runsHalted i = false → Rejects i d .eHalted
  | sequence : d.err = 0 → d.allows i = false → Rejects i d .eSeq
  | overflow : d.err = 0 → d.allows i = true → (∃ b, i = .pushb b) → d.bitLen = Config.maxBitLen →
      Rejects i d .eLenOvf

/-- Inversion of exec: a command that answers a next state is rejected for one of the three reasons, or it is accepted,
its checks hold, and the state is its effect with its data word. -/
theorem exec_cases {i : Instr} {s s' : State} (h : exec i s = .next s') :
    (∃ c, Rejects i s.dev c ∧ s' = s.raise c) ∨
    ((s.dev.err = 0 ∨ runsHalted i = true) ∧ s.dev.allows i = true ∧
      (∀ b, i = .pushb b → s.dev.bitLen ≠ Config.maxBitLen ∧ s.dev.fill.toNat < 64) ∧
      (i = .final → s.dev.fill.toNat < 64) ∧
      s' = ({ s with dev := s.dev.effect i }.respond .ok (s.dev.reads i))) := by
  have key : ∀ (a : Bool) (run : Result), exec i s = guarded a s run →
      a = s.dev.allows i → runsHalted i = false →
      (s.dev.err = 0 → a = true → run = .next s' →
        (∃ c, Rejects i s.dev c ∧ s' = s.raise c) ∨
        ((s.dev.err = 0 ∨ runsHalted i = true) ∧ s.dev.allows i = true ∧
          (∀ b, i = .pushb b → s.dev.bitLen ≠ Config.maxBitLen ∧ s.dev.fill.toNat < 64) ∧
          (i = .final → s.dev.fill.toNat < 64) ∧
          s' = ({ s with dev := s.dev.effect i }.respond .ok (s.dev.reads i)))) →
      (∃ c, Rejects i s.dev c ∧ s' = s.raise c) ∨
      ((s.dev.err = 0 ∨ runsHalted i = true) ∧ s.dev.allows i = true ∧
        (∀ b, i = .pushb b → s.dev.bitLen ≠ Config.maxBitLen ∧ s.dev.fill.toNat < 64) ∧
        (i = .final → s.dev.fill.toNat < 64) ∧
        s' = ({ s with dev := s.dev.effect i }.respond .ok (s.dev.reads i))) := by
    intro a run he ha hr k
    rcases guarded_cases a s run with ⟨e, g⟩ | ⟨e, al, g⟩ | ⟨e, al, g⟩
    · rw [he, g] at h
      exact .inl ⟨_, .halted e hr, by cases h; rfl⟩
    · rw [he, g] at h
      exact .inl ⟨_, .sequence e (ha ▸ al), by cases h; rfl⟩
    · rw [he, g] at h
      exact k e al h
  cases i with
  | init => cases h; exact .inr ⟨.inr rfl, rfl, by simp, by simp, rfl⟩
  | rdstat => cases h; exact .inr ⟨.inr rfl, rfl, by simp, by simp, rfl⟩
  | pushb b =>
    refine key _ _ rfl rfl rfl fun e al hrun => ?_
    split at hrun
    · exact .inl ⟨_, .overflow e al ⟨b, rfl⟩ ‹_›, by cases hrun; rfl⟩
    · split at hrun
      · refine .inr ⟨.inl e, al, fun _ _ => ⟨‹_›, ‹_›⟩, by simp, by cases hrun; rfl⟩
      · cases hrun
  | final =>
    refine key _ _ rfl rfl rfl fun e al hrun => ?_
    split at hrun
    · exact .inr ⟨.inl e, al, by simp, fun _ => ‹_›, by cases hrun; rfl⟩
    · cases hrun
  | expand => exact key _ _ rfl rfl rfl fun e al hrun => .inr ⟨.inl e, al, by simp, by simp, by cases hrun; rfl⟩
  | next => exact key _ _ rfl rfl rfl fun e al hrun => .inr ⟨.inl e, al, by simp, by simp, by cases hrun; rfl⟩
  | rdbw j => exact key _ _ rfl rfl rfl fun e al hrun => .inr ⟨.inl e, al, by simp, by simp, by cases hrun; rfl⟩
  | rdw t => exact key _ _ rfl rfl rfl fun e al hrun => .inr ⟨.inl e, al, by simp, by simp, by cases hrun; rfl⟩
  | rdcnt c => exact key _ _ rfl rfl rfl fun e al hrun => .inr ⟨.inl e, al, by simp, by simp, by cases hrun; rfl⟩

/-- Inversion of the edge (R40, R41, R109): reset, an accepted word, an idle edge, a wait, or an offer. -/
theorem edge_cases (s : State) :
    (s.input.rst = true ∧ s.edge = .settles s.sampled.resetEdge) ∨
    (s.input.rst = false ∧ s.port = .idle ∧ s.input.cmdValid = true ∧
      s.edge = .accepts s.input.cmdData (s.sampled.latchCommand s.input.cmdData)) ∨
    (s.input.rst = false ∧ s.port = .idle ∧ s.input.cmdValid = false ∧ s.edge = .settles s.sampled) ∨
    (s.input.rst = false ∧ ∃ rsp n, s.port = .busy rsp n ∧ s.edge = .settles (s.sampled.waitResponse rsp n)) ∨
    (s.input.rst = false ∧ ∃ rsp, s.port = .offering rsp ∧
      s.edge = .settles (s.sampled.offerResponse s.input.rspReady)) := by
  cases hr : s.input.rst with
  | true => exact .inl ⟨rfl, by simp [State.edge, hr]⟩
  | false =>
    cases hp : s.port with
    | idle =>
      cases hv : s.input.cmdValid with
      | true => exact .inr (.inl ⟨rfl, rfl, rfl, by simp [State.edge, hr, hp, hv]⟩)
      | false => exact .inr (.inr (.inl ⟨rfl, rfl, rfl, by simp [State.edge, hr, hp, hv]⟩))
    | busy rsp n => exact .inr (.inr (.inr (.inl ⟨rfl, rsp, n, rfl, by simp [State.edge, hr, hp]⟩)))
    | offering rsp => exact .inr (.inr (.inr (.inr ⟨rfl, rsp, rfl, by simp [State.edge, hr, hp]⟩)))

/-- A step at an edge that accepts a word runs the word. -/
theorem step_of_accepts {s s' : State} {w : Word} (h : s.edge = .accepts w s') : step s = runWord w s' := by
  simp [step, h]

/-- A step at any other edge changes the port only. -/
theorem step_of_settles {s s' : State} (h : s.edge = .settles s') : step s = .next s' := by
  simp [step, h]

/-- A legal word runs its command. -/
theorem runWord_of_ok {w : Word} {i : Instr} (s : State) (h : decode w = .ok i) : runWord w s = exec i s := by
  simp [runWord, h]

/-- An illegal word is rejected with E_ILLEGAL (R90). -/
theorem runWord_of_error {w : Word} {e : DecodeError} (s : State) (h : decode w = .error e) :
    runWord w s = reject .eIllegal s := by
  simp [runWord, h]

end Sys2Proof.Machine
end

