-- ==== Sys2Proof/Laws/PerInstr.lean ====
section
/-! SUPPORT. The families of statements proved per command (LAWS.json). -/

/-- The encoder's word is the word of the command's own row of the opcode map (R55), and of no row with another
mnemonic. -/
def Sys2Proof.Laws.EncodedInOwnRow.Statement (i : Sys2Proof.Instr) : Prop :=
  ∀ r ∈ Sys2Proof.opcodeMap, r.matchesWord (Sys2Proof.encode i) = true ↔ r.mnemonic = i.mnemonic

namespace Sys2Proof.Laws.EncodedInOwnRow

theorem init : Statement .init := by unfold Statement; decide

theorem pushb (b : Byte) : Statement (.pushb b) := by
  have h : ∀ b : Byte, ∀ r ∈ opcodeMap, r.matchesWord (encode (.pushb b)) = true ↔ r.mnemonic = Instr.mnemonic (.pushb b) := by
    decide +kernel
  exact h b

theorem final : Statement .final := by unfold Statement; decide

theorem expand : Statement .expand := by unfold Statement; decide

theorem next : Statement .next := by unfold Statement; decide

theorem rdbw (i : Fin 16) : Statement (.rdbw i) := by
  revert i; unfold Statement; decide +kernel

theorem rdw (t : Fin 64) : Statement (.rdw t) := by
  revert t; unfold Statement; decide +kernel

theorem rdcnt (sel : CounterHalf) : Statement (.rdcnt sel) := by
  cases sel <;> (unfold Statement; decide)

theorem rdstat : Statement .rdstat := by unfold Statement; decide

end Sys2Proof.Laws.EncodedInOwnRow
end

