-- ==== Sys2Proof/Laws/Runs.lean ====
section
/-! SUPPORT. Runs of command words: what the first word of a run adds to each of the functions that follow it, and what the
commands that do not touch `rdy` and `lpend` present. -/

namespace Sys2Proof.Machine

@[simp] theorem transcript_nil (s : State) : transcript [] s = [] := rfl
@[simp] theorem afterWords_nil (s : State) : afterWords [] s = some s := rfl
@[simp] theorem runResult_nil (s : State) : runResult [] s = ⟨.unused, []⟩ := rfl

theorem transcript_cons {w : Word} {s s' : State} {rsp : Response} (ws : List Word)
    (h : transact w s = some (s', rsp)) : transcript (w :: ws) s = (w, rsp) :: transcript ws s' := by
  simp only [transcript, h]

theorem afterWords_cons {w : Word} {s s' : State} {rsp : Response} (ws : List Word)
    (h : transact w s = some (s', rsp)) : afterWords (w :: ws) s = afterWords ws s' := by
  simp only [afterWords, h]

theorem runResult_cons {w : Word} {i : Instr} {s s' : State} {rsp : Response} (ws : List Word)
    (h : transact w s = some (s', rsp)) (hd : decode w = .ok i) :
    runResult (w :: ws) s = (runResult ws s').preceded i s.dev s'.dev rsp := by
  simp only [runResult, h, hd]

theorem runResult_cons_illegal {w : Word} {e : DecodeError} {s s' : State} {rsp : Response} (ws : List Word)
    (h : transact w s = some (s', rsp)) (hd : decode w = .error e) : runResult (w :: ws) s = runResult ws s' := by
  simp only [runResult, h, hd]

/-- A transaction is a run of the word on the state that sampled it, its response taken. -/
theorem transact_of_next {w : Word} {s t : State} {rsp : Response} (h : runWord w (s.latchCommand w) = .next t)
    (ha : t.answer = some rsp) : transact w s = some ({ t with port := .idle }, rsp) := by
  simp only [transact, h, ha, Option.map_some]

/-- A command that leaves `rdy` and `lpend` as they were presents nothing (R66). -/
theorem presents_of_unchanged {i : Instr} {d e : Device} (hr : e.rdy = d.rdy) (hl : e.lpend = d.lpend) :
    presents i d e = false := by
  cases h : d.rdy <;> cases h' : d.lpend <;> simp [presents, hr, hl, h, h']

/-- A block that a command presents begins unused in the result of the run (R116). -/
theorem RunResult.preceded_of_presents {i : Instr} {d e : Device} (r : RunResult) (rsp : Response)
    (h : presents i d e = true) : r.preceded i d e rsp = ⟨.unused, ⟨e.presentation, r.atStart⟩ :: r.blocks⟩ :=
  if_pos h

/-- Any other command belongs to the use of the block presented before it. -/
theorem RunResult.preceded_of_not_presents {i : Instr} {d e : Device} (r : RunResult) (rsp : Response)
    (h : presents i d e = false) :
    r.preceded i d e rsp = { r with atStart := r.atStart.preceded i rsp } := by
  simp [RunResult.preceded, h]

/-- The response lines while a response is offered (R40, R52). -/
@[simp] theorem State.rspOut_of_offering {s : State} {rsp : Response} (h : s.port = .offering rsp) :
    s.rspOut = some rsp := by
  simp [State.rspOut, h]

end Sys2Proof.Machine
end

