-- ==== Sys2Proof/Tests/Slice0.lean ====
section
/-! SUPPORT. Tests of the model against words, vectors and examples of the spec, and, for each obligation with hypotheses,
a state and operands that meet them (witness_…). -/

namespace Sys2Proof.Tests

open Sys2Proof.Machine

/-! ### Small states -/

/-- A machine whose port is idle and whose host is quiet. -/
def machineOf (d : Device) : State := { State.reset with dev := d }

/-- What a command leaves, for the tests to look into. -/
def nextOf (r : Result) : Option State :=
  match r with
  | .next s => some s
  | .fault _ => none
  | .refused _ => none

/-- The device a command leaves and its response, seen through a function. -/
def seen {α : Type} (r : Result) (f : Device → α) : Option (α × Option Response) :=
  (nextOf r).map fun s => (f s.dev, s.answer)

/-- No message byte yet, and a stray byte in `buf`. -/
def freshDev : Device := { Device.reset with buf := Device.reset.buf.set 0 1 }

/-- One byte pushed (V4.1). -/
def oneByteDev : Device := { Device.reset with buf := Device.reset.buf.set 0 0x61, fill := 1, bitLen := 8 }

/-- "abc" pushed (V4.2). -/
def abcDev : Device :=
  { Device.reset with buf := ((Device.reset.buf.set 0 0x61).set 1 0x62).set 2 0x63, fill := 3, bitLen := 24 }

/-- The block of "abc", presented (V1.2). -/
def abcBlockDev : Device :=
  { abcDev with
    buf := (abcDev.buf.set 3 0x80).set 63 0x18
    fill := 64, rdy := true, fin := true, last := true }

/-- The same block, expanded. -/
def abcExpandedDev : Device := { abcBlockDev with W := expand (blockWords abcBlockDev.buf), sv := true }

/-- 63 bytes of a message pushed. -/
def almostFullDev : Device := { Device.reset with fill := 63, bitLen := 504 }

/-- A full message block of 64 bytes, presented (V4.5). -/
def fullDev : Device := { Device.reset with fill := 64, bitLen := 512, rdy := true }

/-- A message of 56 bytes, closed, its length still to be presented (V4.3). -/
def pendingDev : Device :=
  { Device.reset with
    buf := Device.reset.buf.set 56 0x80
    fill := 64, bitLen := 448, rdy := true, fin := true, lpend := true }

/-- The empty message, finished (V5.2). -/
def doneDev : Device :=
  { Device.reset with buf := Device.reset.buf.set 0 0x80, fin := true, done := true, blkIdx := 1 }

/-- A halted device (V5.5). -/
def haltedDev : Device := { Device.reset with err := 2 }

/-- The start state of V4.9: 2^61 - 2 message bytes. -/
def nearLongestDev : Device :=
  { Device.reset with bitLen := BitVec.ofNat 64 (2 ^ 64 - 16), fill := 62, blkIdx := BitVec.ofNat 64 (2 ^ 55 - 1) }

/-- The start state of V4.10: 2^61 - 1 message bytes. -/
def longestDev : Device :=
  { Device.reset with bitLen := BitVec.ofNat 64 (2 ^ 64 - 8), fill := 63, blkIdx := BitVec.ofNat 64 (2 ^ 55 - 1) }

theorem freshDev_inv : freshDev.Inv := by constructor <;> decide
theorem oneByteDev_inv : oneByteDev.Inv := by constructor <;> decide
theorem abcDev_inv : abcDev.Inv := by constructor <;> decide
theorem abcExpandedDev_inv : abcExpandedDev.Inv := by
  constructor <;> first | decide | exact fun _ => rfl
theorem fullDev_inv : fullDev.Inv := by constructor <;> decide
theorem pendingDev_inv : pendingDev.Inv := by constructor <;> decide
theorem doneDev_inv : doneDev.Inv := by constructor <;> decide
theorem haltedDev_inv : haltedDev.Inv := by constructor <;> decide
theorem longestDev_inv : longestDev.Inv := by constructor <;> decide

/-! ### Assembler lines (R63): an ill-formed line for each check, refused -/

theorem test_wellFormed_pushb : (AsmLine.pushb 255).wellFormed = true ∧ (AsmLine.pushb 256).wellFormed = false := by decide
theorem test_wellFormed_rdbw : (AsmLine.rdbw 15).wellFormed = true ∧ (AsmLine.rdbw 16).wellFormed = false := by decide
theorem test_wellFormed_rdw : (AsmLine.rdw 63).wellFormed = true ∧ (AsmLine.rdw 64).wellFormed = false := by decide
theorem test_wellFormed_rdcnt : (AsmLine.rdcnt 3).wellFormed = true ∧ (AsmLine.rdcnt 4).wellFormed = false := by decide
theorem test_assemble_refuses : (AsmLine.rdw 64).assemble = none := by decide

/-- The examples of R63. -/
theorem test_assemble_examples :
    (AsmLine.pushb 0x61).assemble = some [0x02000061] ∧ (AsmLine.rdw 16).assemble = some [0x07000010] ∧
    (AsmLine.rdcnt 2).assemble = some [0x08000002] := by decide

theorem test_parse_operands :
    parseLine "RDW 0x3F ; last word".toList = some (some (.rdw 63)) ∧
    parseLine "RDBW 15".toList = some (some (.rdbw 15)) ∧ parseLine "INIT".toList = some (some .init) ∧
    parseLine "; comment".toList = some none ∧ parseLine "init".toList = none ∧
    parseLine "RDW 0x".toList = none := by decide

theorem test_parse_text : parseLine "PUSHS \"abc\"".toList = some (some (.pushs [0x61, 0x62, 0x63])) := by decide

/-! ### Decoding: words written out from R54, R55 and the illegal words of V5.1 -/

theorem test_decode_init : decode 0b00000001000000000000000000000000 = .ok .init := by decide
theorem test_decode_pushb : decode 0b00000010000000000000000010000000 = .ok (.pushb 0x80) := by decide
theorem test_decode_final : decode 0b00000011000000000000000000000000 = .ok .final := by decide
theorem test_decode_expand : decode 0b00000100000000000000000000000000 = .ok .expand := by decide
theorem test_decode_next : decode 0b00000101000000000000000000000000 = .ok .next := by decide
theorem test_decode_rdbw : decode 0b00000110000000000000000000001010 = .ok (.rdbw 10) := by decide
theorem test_decode_rdw : decode 0b00000111000000000000000000100001 = .ok (.rdw 33) := by decide
theorem test_decode_rdcnt : decode 0b00001000000000000000000000000011 = .ok (.rdcnt .blkIdxHigh) := by decide
theorem test_decode_rdstat : decode 0b00001001000000000000000000000000 = .ok .rdstat := by decide

theorem test_decode_unassigned :
    decode 0 = .error (.unassignedOpcode 0) ∧ decode 0x0A000000 = .error (.unassignedOpcode 0x0A) ∧
    decode 0xFF000000 = .error (.unassignedOpcode 0xFF) := by decide

theorem test_decode_reserved :
    decode 0x01000001 = .error (.reservedArgument 1) ∧ decode 0x02000100 = .error (.reservedArgument 2) ∧
    decode 0x03800000 = .error (.reservedArgument 3) ∧ decode 0x04000001 = .error (.reservedArgument 4) ∧
    decode 0x05000100 = .error (.reservedArgument 5) ∧ decode 0x06000010 = .error (.reservedArgument 6) ∧
    decode 0x07000040 = .error (.reservedArgument 7) ∧ decode 0x08000004 = .error (.reservedArgument 8) ∧
    decode 0x09000001 = .error (.reservedArgument 9) := by decide

theorem test_decodeTableWord : decodeTableWord 32 0x0700003F = some (.rdw 63) ∧ decodeTableWord 32 0x0A000000 = none := by
  decide

/-! ### The σ functions (V2.3) and byte order (V2.1) -/

theorem test_sigma0 :
    sigma0 0x80000000 = 0x11002000 ∧ sigma0 0x61626380 = 0x940E90EF ∧ sigma0 0x12345678 = 0xE7FCE6EE := by decide
theorem test_sigma1 :
    sigma1 0x80000000 = 0x00205000 ∧ sigma1 0x61626380 = 0x7DA86405 ∧ sigma1 0x12345678 = 0xA1F78649 := by decide
theorem test_be32 : be32 0x00 0x01 0x02 0x03 = 0x00010203 := by decide

/-! ### One step of each command -/

/-- V5.5, V5.6: INIT out of the halted state. -/
theorem test_init : seen (exec .init (machineOf haltedDev)) Device.status = some (0, some ⟨.ok, 0⟩) := by decide

/-- V4.1. -/
theorem test_pushb :
    seen (exec (.pushb 0x61) (machineOf Device.reset)) (fun d => (d.buf[0], d.status, d.bitLen)) =
      some ((0x61, 0x00000100, 8), some ⟨.ok, 0⟩) := by decide

/-- V4.5: the 64th byte sets `rdy`. -/
theorem test_pushb_fills :
    seen (exec (.pushb 0x61) (machineOf almostFullDev)) (fun d => (d.buf[63], d.status)) =
      some ((0x61, 0x00004001), some ⟨.ok, 0⟩) := by decide

/-- V4.2: the block of "abc". -/
theorem test_final_room :
    seen (exec .final (machineOf abcDev)) (fun d => (d.status, blockWord d.buf 0, blockWord d.buf 1, blockWord d.buf 15)) =
      some ((0x0000400D, 0x61626380, 0, 0x18), some ⟨.ok, 0⟩) := by decide +kernel

/-- V4.10: the marker is the last byte of its block. -/
theorem test_final_no_room :
    seen (exec .final (machineOf longestDev)) (fun d => (d.status, blockWord d.buf 15)) =
      some ((0x00004019, 0x00000080), some ⟨.ok, 0⟩) := by decide +kernel

/-- V4.3: NEXT builds the length-only block. -/
theorem test_next_length_block :
    seen (exec .next (machineOf pendingDev)) (fun d => (d.status, blockWord d.buf 14, blockWord d.buf 15, d.blkIdx)) =
      some ((0x0000400D, 0, 0x000001C0, 1), some ⟨.ok, 0⟩) := by decide +kernel

/-- P1: NEXT after the last block. -/
theorem test_next_done :
    seen (exec .next (machineOf abcBlockDev)) (fun d => (d.status, d.blkIdx)) =
      some ((0x00000028, 1), some ⟨.ok, 0⟩) := by decide +kernel

/-- V3.2: the schedule of the block of "abc". -/
theorem test_expand :
    seen (exec .expand (machineOf abcBlockDev)) (fun d => (d.W[16], d.W[17], d.W[40], d.W[63])) =
      some ((0x61626380, 0x000F0000, 0x9F47BF94, 0x12B1EDEB), some ⟨.ok, 0⟩) := by
  decide +kernel

/-- V3.5: each of the four taps. -/
theorem test_expand_taps :
    ((expand (Vector.ofFn fun i : Fin 16 => BitVec.ofNat 32 i.val)).toList.drop 16).take 4 =
      [0x02070009, 0x0406E00B, 0x6605E090, 0xB406E34A] := by decide +kernel

/-- V4.2. -/
theorem test_rdbw :
    seen (exec (.rdbw 15) (machineOf abcBlockDev)) Device.status = some (0x0000400D, some ⟨.ok, 0x00000018⟩) := by decide

/-- P1. -/
theorem test_rdw :
    seen (exec (.rdw 17) (machineOf abcExpandedDev)) Device.status = some (0x0000400F, some ⟨.ok, 0x000F0000⟩) := by
  decide +kernel

/-- V4.9. -/
theorem test_rdcnt :
    seen (exec (.rdcnt .bitLenLow) (machineOf nearLongestDev)) Device.err = some (0, some ⟨.ok, 0xFFFFFFF0⟩) ∧
    seen (exec (.rdcnt .blkIdxHigh) (machineOf nearLongestDev)) Device.err = some (0, some ⟨.ok, 0x007FFFFF⟩) := by decide

/-- V5.2. -/
theorem test_rdstat :
    seen (exec .rdstat (machineOf { doneDev with err := 2 })) Device.done =
      some (true, some ⟨.ok, 0x00020028⟩) := by decide

/-- V5.1: an illegal word. -/
theorem test_illegal_word :
    seen (runWord 0x06000010 (machineOf Device.reset)) Device.status = some (0x00010000, some ⟨.eIllegal, 0⟩) := by decide

/-- V5.2: NEXT with no block. -/
theorem test_sequence_error :
    seen (exec .next (machineOf Device.reset)) Device.status = some (0x00020000, some ⟨.eSeq, 0⟩) := by decide

/-- V5.3: one byte too many. -/
theorem test_length_overflow :
    seen (exec (.pushb 0) (machineOf longestDev)) (fun d => (d.status, d.bitLen)) =
      some ((0x00033F00, BitVec.ofNat 64 (2 ^ 64 - 8)), some ⟨.eLenOvf, 0⟩) := by decide

/-! ### One edge -/

/-- The first step after reset runs the word placed for it (V4.1). -/
theorem test_fetched_word :
    seen (step (State.reset.withFetchWord 32 0x02000061)) Device.status = some (0x00000100, some ⟨.ok, 0⟩) := by decide

/-- R110: reset discards an outstanding response. -/
theorem test_reset_edge :
    (nextOf (step { machineOf abcDev with port := .busy ⟨.ok, 0⟩ 0, pins := [⟨true, true, 0x09000000, true⟩] })).map
      (fun s => (s.port, s.dev.status)) = some (.idle, 0) := by decide

/-! ### Presentations (R66) and the result of a run (R116) -/

/-- A full block, then a PUSHB that is rejected (V5.2), then NEXT: rejected with E_HALTED, it presents nothing. -/
theorem test_rejected_next_presents_nothing :
    (nextOf (exec .next (machineOf { fullDev with err := 2 }))).map (fun t => presents .next { fullDev with err := 2 } t.dev) =
      some false := by decide

/-- V4.3: the NEXT that builds the length-only block presents it. -/
theorem test_length_block_is_presented :
    (nextOf (exec .next (machineOf pendingDev))).map (fun t => presents .next pendingDev t.dev) = some true := by decide

/-- Assembler lines without an operand, from R55. -/
theorem test_assemble_plain :
    AsmLine.init.assemble = some [0x01000000] ∧ AsmLine.final.assemble = some [0x03000000] ∧
    AsmLine.expand.assemble = some [0x04000000] ∧ AsmLine.next.assemble = some [0x05000000] ∧
    AsmLine.rdstat.assemble = some [0x09000000] := by decide

/-- V1.1, V3.3: the schedule of the block of the empty message. -/
theorem test_scheduleOf : (scheduleOf (paddedBlock [] 0))[18] = 0x00205000 := by decide +kernel

/-! ### Witnesses: hypotheses that can be met -/

theorem witness_EncodeDecodeRoundTrip : decode 0x07000010 = .ok (.rdw 16) := by decide

theorem witness_IllegalWordsAreRejected :
    (opField 0 = 0 ∨ 0x0A ≤ opField 0) ∧ (opField 0x0A000000 = 0 ∨ 0x0A ≤ opField 0x0A000000) ∧
    ((opField 0x06000010).toNat = 6 ∧ argField 0x06000010 >>> 4 ≠ 0) ∧
    decode 0xFF000000 = .error (.unassignedOpcode 0xFF) := by decide

theorem witness_StepRunsAcceptedCommand :
    let s := State.reset.offerWord 0x01000000
    let r := State.reset.offerWord 0x01000001
    (s.port = .idle ∧ s.input.rst = false ∧ s.input.cmdValid = true ∧ decode s.input.cmdData = .ok .init) ∧
    (r.port = .idle ∧ r.input.rst = false ∧ r.input.cmdValid = true ∧
      decode r.input.cmdData = .error (.reservedArgument 1)) := by decide

theorem witness_PortIgnoresOffersWhileOutstanding :
    { State.reset with port := .offering ⟨.ok, 0⟩ }.port ≠ .idle := by decide

theorem witness_ResponseHeldUntilTaken :
    let s := { State.reset with port := .offering ⟨.ok, 7⟩ }
    let r := { s with pins := [⟨false, false, 0, true⟩] }
    (s.port = .offering ⟨.ok, 7⟩ ∧ s.input.rst = false ∧ s.input.rspReady = false) ∧
    (r.port = .offering ⟨.ok, 7⟩ ∧ r.input.rst = false ∧ r.input.rspReady = true) := by decide

theorem witness_CommandAnsweredWithinLatency :
    let s := { State.reset with port := .busy ⟨.ok, 0⟩ 0 }
    s.port = .busy ⟨.ok, 0⟩ 0 ∧ 0 < Config.latency s.cmd ∧
      ∀ p ∈ s.pins.take (Config.latency s.cmd - 0), p.rst = false :=
  ⟨rfl, Config.latency_pos _, fun p hp => by simp [State.reset] at hp⟩

theorem witness_IdleDeviceHoldsItsState :
    let s := { State.reset with pins := [Pins.quiet, ⟨false, false, 5, true⟩, ⟨true, true, 0, true⟩] }
    s.port = .idle ∧ ∀ p ∈ s.pins.take 2, p.rst = false ∧ p.cmdValid = false := by decide

theorem witness_ResetEdgeDiscardsEverything :
    { State.reset with port := .busy ⟨.ok, 0⟩ 0, pins := [⟨true, false, 0, true⟩] }.input.rst = true := by decide

theorem witness_PortServesCommandsInOrder :
    let s := { machineOf oneByteDev with pins := [⟨false, true, 0x02000061, false⟩, ⟨false, false, 0, true⟩] }
    s.dev.Inv ∧ s.port = .idle ∧ ∀ p ∈ s.pins.take 2, p.rst = false :=
  ⟨oneByteDev_inv, rfl, by decide⟩

theorem witness_HeldCommandIsAcceptedUnchanged :
    let s := { machineOf abcDev with
      port := .offering ⟨.ok, 0⟩, pins := [⟨false, true, 0x03000000, true⟩, ⟨false, true, 0x03000000, true⟩] }
    s.port = .offering ⟨.ok, 0⟩ ∧ s.input.rst = false ∧ s.input.rspReady = true ∧ s.input.cmdValid = true ∧
    s.HostHoldsCommand ∧ s.sampled.input.rst = false ∧ s.sampled.input.cmdValid = true :=
  ⟨rfl, rfl, rfl, rfl, fun _ _ _ => rfl, rfl, rfl⟩

/-- Halted; closed; full; at the length limit; the last byte before it; the last byte of a block. -/
theorem witness_PushbAppendsByte :
    haltedDev.err ≠ 0 ∧ (abcBlockDev.err = 0 ∧ abcBlockDev.fin = true) ∧ (fullDev.err = 0 ∧ fullDev.rdy = true) ∧
    (longestDev.err = 0 ∧ longestDev.fin = false ∧ longestDev.rdy = false ∧ longestDev.bitLen.toNat = 2 ^ 64 - 8) ∧
    (nearLongestDev.err = 0 ∧ nearLongestDev.fin = false ∧ nearLongestDev.rdy = false ∧
      nearLongestDev.bitLen.toNat ≠ 2 ^ 64 - 8 ∧ nearLongestDev.fill.toNat < 64) ∧
    (almostFullDev.err = 0 ∧ almostFullDev.fin = false ∧ almostFullDev.rdy = false ∧
      almostFullDev.bitLen.toNat ≠ 2 ^ 64 - 8 ∧ almostFullDev.fill.toNat = 63) := by decide

/-- The tail at 0, 55, 56 and 63 bytes, and the two rejections. -/
theorem witness_FinalWritesPadding :
    (∀ r ∈ [0, 55, 56, 63], let d := { Device.reset with fill := BitVec.ofNat 7 r, bitLen := BitVec.ofNat 64 (8 * r) }
      d.err = 0 ∧ d.fin = false ∧ d.rdy = false ∧ d.fill.toNat = r ∧ d.fill.toNat < 64) ∧
    haltedDev.err ≠ 0 ∧ (fullDev.err = 0 ∧ fullDev.rdy = true) := by decide

theorem witness_NextReleasesBlock :
    haltedDev.err ≠ 0 ∧ (abcDev.err = 0 ∧ abcDev.rdy = false) ∧
    (pendingDev.err = 0 ∧ pendingDev.rdy = true ∧ pendingDev.lpend = true) ∧
    (abcBlockDev.err = 0 ∧ abcBlockDev.rdy = true ∧ abcBlockDev.lpend = false ∧ abcBlockDev.last = true) ∧
    (fullDev.err = 0 ∧ fullDev.rdy = true ∧ fullDev.lpend = false ∧ fullDev.last = false) := by decide

theorem witness_ExpandComputesSchedule :
    haltedDev.err ≠ 0 ∧ (abcDev.err = 0 ∧ abcDev.rdy = false) ∧ (pendingDev.err = 0 ∧ pendingDev.rdy = true) := by decide

theorem witness_RdbwReadsBlockWord :
    haltedDev.err ≠ 0 ∧ (abcDev.err = 0 ∧ abcDev.rdy = false) ∧ (abcBlockDev.err = 0 ∧ abcBlockDev.rdy = true) := by decide

theorem witness_RdwReadsScheduleWord :
    haltedDev.err ≠ 0 ∧ (abcBlockDev.err = 0 ∧ abcBlockDev.sv = false) ∧
    (abcExpandedDev.err = 0 ∧ abcExpandedDev.sv = true) := by decide

theorem witness_RdcntReadsCounterHalf : haltedDev.err ≠ 0 ∧ doneDev.err = 0 := by decide

theorem witness_SigmaFunctionsByBits : 1 ≤ 31 ∧ 31 ≤ 31 ∧ 31 < 32 := by decide

theorem witness_ExpandIsIdempotent : (machineOf fullDev).dev.err = 0 ∧ (machineOf fullDev).dev.rdy = true := by decide

theorem witness_RdwAgreesWithRdbw :
    (machineOf abcExpandedDev).dev.Inv ∧ (machineOf abcExpandedDev).dev.err = 0 ∧ (machineOf abcExpandedDev).dev.sv = true :=
  ⟨abcExpandedDev_inv, by decide⟩

theorem witness_RejectionIsPrecise :
    ∃ t, runWord 0x05000000 (machineOf oneByteDev) = .next t ∧ t.answer = some ⟨.eSeq, 0⟩ ∧ RspCode.eSeq ≠ .ok :=
  ⟨_, rfl, by decide⟩

theorem witness_HaltedDeviceRunsOnlyInitAndRdstat :
    (machineOf haltedDev).dev.err ≠ 0 ∧ Instr.expand ≠ .init ∧ Instr.expand ≠ .rdstat ∧
    decode 0 = .error (.unassignedOpcode 0) := by decide

theorem witness_OnlyInitOrResetLeavesHalted :
    ∃ t, step ((machineOf haltedDev).offerWord 0x01000000) = .next t ∧ haltedDev.err ≠ 0 ∧ t.dev ≠ haltedDev :=
  ⟨_, rfl, by decide⟩

theorem witness_SequenceErrorsByPrecondition : (machineOf fullDev).dev.err = 0 := by decide

theorem witness_ChecksAreMadeInOrder : (machineOf longestDev).dev.Inv := longestDev_inv

theorem witness_LongestMessageEndsInLengthBlock :
    (machineOf longestDev).dev.Inv ∧ longestDev.err = 0 ∧ longestDev.fin = false ∧
    longestDev.bitLen.toNat = 2 ^ 64 - 8 :=
  ⟨longestDev_inv, by decide⟩

theorem witness_InvariantErrorNeverAnswered :
    ∃ t, runWord 0x09000000 (machineOf { Device.reset with err := 5 }) = .next t ∧ t.dev.err = 5 :=
  ⟨_, rfl, by decide⟩

theorem witness_NoStepStopsTheMachine : (machineOf pendingDev).dev.Inv := pendingDev_inv

theorem witness_StepKeepsInvariant :
    ((machineOf oneByteDev).offerWord 0x03000000).Inv ∧ ∃ t, step ((machineOf oneByteDev).offerWord 0x03000000) = .next t :=
  ⟨⟨oneByteDev_inv, trivial⟩, _, rfl⟩

theorem witness_CountersNeverWrap : (machineOf pendingDev).dev.Inv ∧ ∃ t, exec .next (machineOf pendingDev) = .next t :=
  ⟨pendingDev_inv, _, rfl⟩

/-- Two devices that differ in a byte of `buf` and a word of `W` that no command has written. -/
theorem witness_UnwrittenContentsNeverObserved :
    let e : Device := { abcDev with buf := abcDev.buf.set 5 9, W := abcDev.W.set 7 1 }
    abcDev.Inv ∧ abcDev.SameVisible e ∧ abcDev ≠ e ∧ ∃ t, runWord 0x03000000 (machineOf abcDev) = .next t :=
  ⟨abcDev_inv, by constructor <;> decide, by decide, _, rfl⟩

theorem witness_PaddedMessageShape :
    ([] : List Byte).length ≤ 2 ^ 61 - 1 ∧ (List.replicate 56 (0x61 : Byte)).length ≤ 2 ^ 61 - 1 := by decide

theorem witness_CommandsTrackTheMessage :
    (machineOf abcDev).dev.Inv ∧ (machineOf abcDev).dev.Holds [0x61, 0x62, 0x63] ∧
    ∃ t, exec .final (machineOf abcDev) = .next t :=
  ⟨abcDev_inv, by constructor <;> decide, _, rfl⟩

theorem witness_EveryPaddedBlockPresentedInOrder :
    freshDev.Inv ∧ freshDev.fin = false ∧ freshDev.bitLen = 0 ∧
    (∀ i ∈ [Instr.pushb 0x61, .final, .expand, .next], i ≠ .init) ∧
    (runAccepted [.pushb 0x61, .final, .expand, .next] (machineOf freshDev)).map (fun t => t.dev.done) = some true :=
  ⟨freshDev_inv, by decide +kernel⟩

theorem witness_FinalAndNextAlwaysFinish :
    (longestDev.Inv ∧ longestDev.err = 0 ∧ longestDev.fin = false ∧ longestDev.rdy = false) ∧
    (abcDev.Inv ∧ abcDev.err = 0 ∧ abcDev.fin = false ∧ abcDev.rdy = false) :=
  ⟨⟨longestDev_inv, by decide⟩, abcDev_inv, by decide⟩

theorem witness_EveryMessageHasACleanRun :
    (machineOf haltedDev).dev.Inv ∧ (List.replicate 56 (0x61 : Byte)).length ≤ 2 ^ 61 - 1 :=
  ⟨haltedDev_inv, by decide⟩

theorem witness_FieldsWrittenByTheirOwners : ∃ t, exec .expand (machineOf fullDev) = .next t := ⟨_, rfl⟩

theorem witness_AcceptedReadsChangeNothing :
    isRead .rdstat = true ∧ ∃ t v, exec .rdstat (machineOf haltedDev) = .next t ∧ t.answer = some ⟨.ok, v⟩ :=
  ⟨rfl, _, _, rfl, rfl⟩

theorem witness_DoneEndsTheMessage : (machineOf doneDev).dev.Inv ∧ doneDev.done = true ∧ doneDev.err = 0 ∧ Instr.next ≠ .init :=
  ⟨doneDev_inv, by decide⟩

theorem witness_MessageClosedByFinal :
    (machineOf pendingDev).dev.fin = true ∧ Instr.next ≠ .init ∧ ∃ t, exec .next (machineOf pendingDev) = .next t :=
  ⟨rfl, by decide, _, rfl⟩

theorem witness_ResponseDataWord :
    ∃ t rsp, runWord 0x06000000 (machineOf abcBlockDev) = .next t ∧ t.answer = some rsp ∧ rsp.code = .ok :=
  ⟨_, _, rfl, rfl, rfl⟩

theorem witness_ErrorRecordsAnyRejection :
    (machineOf Device.reset).dev.err = 0 ∧ (∀ w ∈ ([0x05000000] : List Word), w ≠ 0x01000000) ∧
    ∃ t, afterWords [0x05000000] (machineOf Device.reset) = some t := by
  obtain ⟨p, h⟩ : ∃ p, transact 0x05000000 (machineOf Device.reset) = some p := ⟨_, rfl⟩
  exact ⟨rfl, by simp, p.1, by simp only [afterWords, h]⟩

theorem witness_EveryWordIsAnswered : (machineOf haltedDev).dev.Inv := haltedDev_inv

theorem witness_PhasesAdvanceInOrder :
    (machineOf abcDev).dev.Inv ∧ Instr.final ≠ .init ∧ ∃ t, exec .final (machineOf abcDev) = .next t :=
  ⟨abcDev_inv, by decide, _, rfl⟩

theorem witness_PresentationsAreThoseOfTheRule :
    (∃ t, exec .final (machineOf abcDev) = .next t) ∧ ∃ t, exec .next (machineOf pendingDev) = .next t :=
  ⟨⟨_, rfl⟩, _, rfl⟩

theorem witness_PresentedBlockIsKept :
    fullDev.rdy = true ∧ Instr.rdbw 0 ≠ .init ∧ (∃ t, exec (.rdbw 0) (machineOf fullDev) = .next t) ∧
    ∃ t, exec .next (machineOf { fullDev with err := 2 }) = .next t ∧ t.answer.map Response.code ≠ some .ok :=
  ⟨rfl, by decide, ⟨_, rfl⟩, _, rfl, by decide⟩

/-- A run that presents the block of "abc", expands it and reads a word of its schedule. -/
theorem witness_ScheduleWordsReadAreOfTheirBlock :
    abcDev.Inv ∧
    ∃ b ∈ (runResult ([Instr.final, .expand, .rdw 17].map encode) (machineOf abcDev)).blocks,
      b.use = ⟨true, [(17, 0x000F0000)]⟩ := by
  refine ⟨abcDev_inv, ?_⟩
  have h : (runResult ([Instr.final, .expand, .rdw 17].map encode) (machineOf abcDev)).blocks.map ShownBlock.use =
      [⟨true, [(17, 0x000F0000)]⟩] := by decide +kernel
  have h' : (⟨true, [(17, 0x000F0000)]⟩ : BlockUse) ∈
      (runResult ([Instr.final, .expand, .rdw 17].map encode) (machineOf abcDev)).blocks.map ShownBlock.use := by
    rw [h]; exact List.mem_singleton.2 rfl
  simpa using h'

theorem witness_ResponseLinesCarryTheResponse :
    { State.reset with port := .offering ⟨.eHalted, 0⟩ }.port = .offering ⟨.eHalted, 0⟩ ∧
    ∀ rsp, State.reset.port ≠ .offering rsp :=
  ⟨rfl, fun _ h => nomatch h⟩

end Sys2Proof.Tests
end

namespace Sys2Proof.Machine

/-! ### Running a command forwards: the converse of `exec_cases` -/

/-- The checks of R98 after decoding all pass (the counterpart of `Rejects`), and the byte PUSHB or FINAL writes
exists. -/
structure Accepts (i : Instr) (d : Device) : Prop where
  running : d.err = 0 ∨ runsHalted i = true
  allowed : d.allows i = true
  push_room : ∀ b, i = .pushb b → d.bitLen ≠ Config.maxBitLen ∧ d.fill.toNat < 64
  final_room : i = .final → d.fill.toNat < 64

/-- The state an accepted command leaves (R11): its effect on the device, and its response. -/
def State.complete (i : Instr) (s : State) : State :=
  { s with dev := s.dev.effect i }.respond .ok (s.dev.reads i)

@[simp] theorem State.complete_dev (i : Instr) (s : State) : (s.complete i).dev = s.dev.effect i := rfl
@[simp] theorem State.complete_cmd (i : Instr) (s : State) : (s.complete i).cmd = s.cmd := rfl
@[simp] theorem State.complete_pins (i : Instr) (s : State) : (s.complete i).pins = s.pins := rfl
@[simp] theorem State.complete_draws (i : Instr) (s : State) : (s.complete i).draws = s.draws := rfl
@[simp] theorem State.complete_port (i : Instr) (s : State) :
    (s.complete i).port = .busy ⟨.ok, s.dev.reads i⟩ 0 := rfl
@[simp] theorem State.complete_answer (i : Instr) (s : State) :
    (s.complete i).answer = some ⟨.ok, s.dev.reads i⟩ := rfl
@[simp] theorem State.raise_answer (s : State) (c : RspCode) : (s.raise c).answer = some ⟨c, 0⟩ := rfl

/-- `exec_cases` with its two outcomes named. -/
theorem exec_outcome {i : Instr} {s t : State} (h : exec i s = .next t) :
    (∃ c, Rejects i s.dev c ∧ t = s.raise c) ∨ (Accepts i s.dev ∧ t = s.complete i) := by
  rcases exec_cases h with hr | ⟨hrun, hallow, hpush, hfinal, ht⟩
  · exact .inl hr
  · exact .inr ⟨⟨hrun, hallow, hpush, hfinal⟩, ht⟩

/-- A command executed in the halted state has no state precondition (R85, R86). -/
theorem runsHalted_of_not_allows {i : Instr} {d : Device} (h : d.allows i = false) : runsHalted i = false := by
  cases i with
  | init | rdstat => cases h
  | pushb | final | expand | next | rdbw | rdw | rdcnt => rfl

/-- Every other command goes through checks 2 and 3 of R98, with R91's precondition. -/
theorem exec_eq_guarded {i : Instr} (s : State) (h : runsHalted i = false) :
    ∃ run, exec i s = guarded (s.dev.allows i) s run := by
  cases i with
  | init | rdstat => cases h
  | pushb | final | expand | next | rdbw | rdw | rdcnt => exact ⟨_, rfl⟩

theorem exec_of_rejects {i : Instr} {s : State} {c : RspCode} (h : Rejects i s.dev c) :
    exec i s = .next (s.raise c) := by
  cases h with
  | halted herr hrun =>
    obtain ⟨run, he⟩ := exec_eq_guarded s hrun
    rw [he, guarded_halted herr, reject]
  | sequence herr hallow =>
    obtain ⟨run, he⟩ := exec_eq_guarded s (runsHalted_of_not_allows hallow)
    rw [he, hallow, guarded_denied herr, reject]
  | overflow herr hallow hpush hlen =>
    obtain ⟨b, rfl⟩ := hpush
    have he : exec (.pushb b) s = guarded (s.dev.allows (.pushb b)) s _ := rfl
    rw [he, hallow, guarded_allowed herr, if_pos hlen, reject]

theorem exec_of_accepts {i : Instr} {s : State} (h : Accepts i s.dev) : exec i s = .next (s.complete i) := by
  obtain ⟨hrun, hallow, hpush, hfinal⟩ := h
  have guard_passes (run : Result) (hi : runsHalted i = false) :
      guarded (s.dev.allows i) s run = run := by
    rw [hallow, guarded_allowed (hrun.resolve_right (by simp [hi]))]
  cases i with
  | init | rdstat => rfl
  | expand | next | rdbw | rdw | rdcnt => exact guard_passes _ rfl
  | pushb b =>
    obtain ⟨hlen, hfill⟩ := hpush b rfl
    exact (guard_passes _ rfl).trans ((if_neg hlen).trans (if_pos hfill))
  | final => exact (guard_passes _ rfl).trans (if_pos (hfinal rfl))

theorem Rejects.code_ne_ok {i : Instr} {d : Device} {c : RspCode} (h : Rejects i d c) : c ≠ .ok := by
  rintro rfl; cases h

theorem Rejects.code_ne_eInvariant {i : Instr} {d : Device} {c : RspCode} (h : Rejects i d c) :
    c ≠ .eInvariant := by
  rintro rfl; cases h

/-- E_HALTED answers in the halted state only (R94). -/
theorem Rejects.err_ne_zero {i : Instr} {d : Device} (h : Rejects i d .eHalted) : d.err ≠ 0 := by
  cases h with
  | halted herr => exact herr

/-- INIT has no exception (R85). -/
theorem not_rejects_init {d : Device} {c : RspCode} : ¬ Rejects .init d c := by
  intro h
  cases h with
  | halted _ hrun => cases hrun
  | sequence _ hallow => cases hallow
  | overflow _ _ hpush => exact nomatch hpush

/-- Why a word is rejected (R98): it is illegal, or its command fails a check after decoding. -/
inductive RejectsWord (w : Word) (d : Device) : RspCode → Prop where
  | illegal {e : DecodeError} : decode w = .error e → RejectsWord w d .eIllegal
  | command {i : Instr} {c : RspCode} : decode w = .ok i → Rejects i d c → RejectsWord w d c

theorem RejectsWord.code_ne_ok {w : Word} {d : Device} {c : RspCode} (h : RejectsWord w d c) : c ≠ .ok := by
  cases h with
  | illegal => decide
  | command _ hr => exact hr.code_ne_ok

/-- Code 5 is never produced (R93). -/
theorem RejectsWord.code_ne_eInvariant {w : Word} {d : Device} {c : RspCode} (h : RejectsWord w d c) :
    c ≠ .eInvariant := by
  cases h with
  | illegal => decide
  | command _ hr => exact hr.code_ne_eInvariant

theorem RejectsWord.err_ne_zero {w : Word} {d : Device} (h : RejectsWord w d .eHalted) : d.err ≠ 0 := by
  cases h with
  | command _ hr => exact hr.err_ne_zero

theorem runWord_of_rejectsWord {w : Word} {s : State} {c : RspCode} (h : RejectsWord w s.dev c) :
    runWord w s = .next (s.raise c) := by
  cases h with
  | illegal hd => exact runWord_of_error s hd
  | command hd hr => exact (runWord_of_ok s hd).trans (exec_of_rejects hr)

/-- Inversion of `runWord`: a word that answers a next state is rejected, or it decodes to a command that is accepted. -/
theorem runWord_outcome {w : Word} {s t : State} (h : runWord w s = .next t) :
    (∃ c, RejectsWord w s.dev c ∧ t = s.raise c) ∨
    (∃ i, decode w = .ok i ∧ Accepts i s.dev ∧ t = s.complete i) := by
  cases hd : decode w with
  | error e =>
    rw [runWord_of_error s hd] at h
    cases h
    exact .inl ⟨_, .illegal hd, rfl⟩
  | ok i =>
    rw [runWord_of_ok s hd] at h
    rcases exec_outcome h with ⟨c, hr, ht⟩ | ⟨ha, ht⟩
    · exact .inl ⟨c, .command hd hr, ht⟩
    · exact .inr ⟨i, rfl, ha, ht⟩

/-! ### The invariant of R27 -/

/-- An open message has none of the flags of a closed one. -/
theorem Device.Inv.flags_of_open {d : Device} (h : d.Inv) (hf : d.fin = false) :
    d.last = false ∧ d.lpend = false ∧ d.done = false := by
  have hl := h.last_rdy
  have hp := h.lpend_rdy
  have hd := h.done_fin
  rw [hf] at hl hp hd
  exact ⟨by simpa using hl, by simpa using hp, by simpa using hd⟩

theorem Device.Inv.fill_eq_of_rdy {d : Device} (h : d.Inv) (hr : d.rdy = true) : d.fill = 64 :=
  h.fill_full.2 hr

theorem Device.Inv.fill_lt_of_not_rdy {d : Device} (h : d.Inv) (hr : d.rdy = false) : d.fill.toNat < 64 := by
  have hne : d.fill ≠ 64 := fun hf => by simp [h.fill_full.1 hf] at hr
  have hle := h.fill_le
  bv_omega

theorem Device.Inv.sv_of_not_rdy {d : Device} (h : d.Inv) (hr : d.rdy = false) : d.sv = false := by
  simpa [hr] using h.sv_rdy

theorem Device.Inv.done_of_rdy {d : Device} (h : d.Inv) (hr : d.rdy = true) : d.done = false := by
  by_contra hd
  obtain ⟨-, hr', -, -⟩ := h.done_fin (by simpa using hd)
  simp [hr] at hr'

/-- R15: the largest value of `bitLen`. -/
theorem Device.Inv.bitLen_le {d : Device} (h : d.Inv) : d.bitLen.toNat ≤ 2 ^ 64 - 8 := by
  have hw := h.whole_bytes
  omega

/-- R15: below its largest value `bitLen` has room for another byte. -/
theorem Device.Inv.bitLen_room {d : Device} (h : d.Inv) (hne : d.bitLen ≠ Config.maxBitLen) :
    d.bitLen.toNat ≤ 2 ^ 64 - 16 := by
  have hw := h.whole_bytes
  have hv : d.bitLen.toNat ≠ 2 ^ 64 - 8 := fun e => hne (BitVec.eq_of_toNat_eq e)
  omega

/-- R16: the largest value of `blkIdx` while a block is being assembled or presented. -/
theorem Device.Inv.blkIdx_le_of_not_done {d : Device} (h : d.Inv) (hd : d.done = false) :
    d.blkIdx.toNat ≤ 2 ^ 55 := by
  have hlen := h.bitLen_le
  cases hf : d.fin with
  | false =>
    have := h.open_count hf
    omega
  | true =>
    have hr : d.rdy = true := by
      by_contra hr
      simp [h.closed_done hf (by simpa using hr)] at hd
    rcases h.presenting_tail hf hr with hl | hp
    · have := h.index_last hl
      rw [Device.messageBytes] at this
      omega
    · have := h.index_lpend hp
      rw [Device.messageBytes] at this
      omega

/-- R16: the largest value of `blkIdx`. -/
theorem Device.Inv.blkIdx_le {d : Device} (h : d.Inv) : d.blkIdx.toNat ≤ 2 ^ 55 + 1 := by
  cases hd : d.done with
  | false => exact (h.blkIdx_le_of_not_done hd).trans (Nat.le_succ _)
  | true =>
    have hlen := h.bitLen_le
    have := h.index_done hd
    rw [Device.messageBytes] at this
    omega

theorem Device.reset_inv : Device.reset.Inv := by constructor <;> decide

/-- R25: the codes a rejection may record are the legal values of `err`. -/
theorem RspCode.bits_le {c : RspCode} (hh : c ≠ .eHalted) (hi : c ≠ .eInvariant) : c.bits.toNat ≤ 3 := by
  cases c with
  | ok | eIllegal | eSeq | eLenOvf => decide
  | eHalted | eInvariant => contradiction

theorem Device.Inv.recordError {d : Device} {c : RspCode} (h : d.Inv) (hc : c ≠ .eInvariant) :
    (d.recordError c).Inv := by
  unfold Device.recordError
  split
  next hcond => exact { h with err_legal := RspCode.bits_le hcond.1 hc }
  next => exact h

theorem Device.clearMessage_inv (d : Device) : d.clearMessage.Inv := by constructor <;> simp

theorem Device.Inv.pushByte {d : Device} (h : d.Inv) (b : Byte) (hf : d.fin = false) (hr : d.rdy = false)
    (hlen : d.bitLen ≠ Config.maxBitLen) : (d.pushByte b).Inv := by
  obtain ⟨hl, hp, hd⟩ := h.flags_of_open hf
  have hfill := h.fill_lt_of_not_rdy hr
  have hroom := h.bitLen_room hlen
  have hcount := h.open_count hf
  have hw := h.whole_bytes
  have hfill' : (d.fill + 1).toNat = d.fill.toNat + 1 := by bv_omega
  have hlen' : (d.bitLen + 8).toNat = d.bitLen.toNat + 8 := by bv_omega
  constructor
  case fill_le => rw [pushByte_fill, hfill']; omega
  case open_count => intro _; rw [pushByte_bitLen, pushByte_fill, pushByte_blkIdx, hfill', hlen']; omega
  case whole_bytes => rw [pushByte_bitLen, hlen']; omega
  case err_legal => exact h.err_legal
  all_goals simp [hf, hr, hl, hp, hd, h.sv_of_not_rdy hr]

theorem Device.Inv.closeMessage {d : Device} (h : d.Inv) (hf : d.fin = false) (hr : d.rdy = false) :
    d.closeMessage.Inv := by
  obtain ⟨hl, hp, hd⟩ := h.flags_of_open hf
  have hfill := h.fill_lt_of_not_rdy hr
  have hcount := h.open_count hf
  constructor
  case index_last => simp [Device.messageBytes]; omega
  case index_lpend => simp [Device.messageBytes]; omega
  case whole_bytes => exact h.whole_bytes
  case err_legal => exact h.err_legal
  case presenting_tail => intro _ _; by_cases hk : d.fill.toNat ≤ 55 <;> simp [hk]
  all_goals simp [hd, h.sv_of_not_rdy hr]

theorem Device.Inv.expandBlock {d : Device} (h : d.Inv) (hr : d.rdy = true) : d.expandBlock.Inv :=
  { h with
    sv_rdy := fun _ => hr
    schedule := fun _ => rfl }

/-- NEXT keeps the invariant in each of the three things it can do (R69). -/
theorem Device.Inv.release {d : Device} (h : d.Inv) (hr : d.rdy = true) : d.release.Inv := by
  have hd := h.done_of_rdy hr
  have hidx := h.blkIdx_le_of_not_done hd
  have hidx' : (d.blkIdx + 1).toNat = d.blkIdx.toNat + 1 := by bv_omega
  cases hp : d.lpend with
  | true =>
    obtain ⟨-, hf, hl⟩ := h.lpend_rdy hp
    have hbytes := h.index_lpend hp
    rw [d.release_of_lpend hp]
    constructor
    case index_last => intro _; simp only [hidx', Device.messageBytes] at hbytes ⊢; omega
    case whole_bytes => exact h.whole_bytes
    case err_legal => exact h.err_legal
    all_goals simp [hf, hd]
  | false =>
    cases hl : d.last with
    | true =>
      obtain ⟨-, hf⟩ := h.last_rdy hl
      have hbytes := h.index_last hl
      rw [d.release_of_last hp hl]
      constructor
      case index_done => intro _; simp only [hidx', Device.messageBytes] at hbytes ⊢; omega
      case whole_bytes => exact h.whole_bytes
      case err_legal => exact h.err_legal
      all_goals simp [hf, hp]
    | false =>
      have hf : d.fin = false := by
        by_contra hf
        simpa [hl, hp] using h.presenting_tail (by simpa using hf) hr
      have hcount := h.open_count hf
      rw [h.fill_eq_of_rdy hr] at hcount
      rw [d.release_of_open hp hl]
      constructor
      case open_count => intro _; simp only [hidx']; simp at hcount ⊢; omega
      case whole_bytes => exact h.whole_bytes
      case err_legal => exact h.err_legal
      all_goals simp [hf, hd, hl, hp]

/-- Every accepted command keeps the invariant (R27). -/
theorem Device.Inv.effect {d : Device} {i : Instr} (h : d.Inv) (ha : Accepts i d) : (d.effect i).Inv := by
  have hallow := ha.allowed
  cases i with
  | init => exact d.clearMessage_inv
  | pushb b =>
    obtain ⟨hf, hr⟩ : d.fin = false ∧ d.rdy = false := by simpa [Device.allows] using hallow
    exact h.pushByte b hf hr (ha.push_room b rfl).1
  | final =>
    obtain ⟨hf, hr⟩ : d.fin = false ∧ d.rdy = false := by simpa [Device.allows] using hallow
    exact h.closeMessage hf hr
  | expand => exact h.expandBlock hallow
  | next => exact h.release hallow
  | rdbw | rdw | rdcnt | rdstat => exact h

theorem exec_keeps_dev_inv {i : Instr} {s t : State} (hs : s.dev.Inv) (h : exec i s = .next t) : t.dev.Inv := by
  rcases exec_outcome h with ⟨c, hr, rfl⟩ | ⟨ha, rfl⟩
  · exact hs.recordError hr.code_ne_eInvariant
  · exact hs.effect ha

theorem runWord_keeps_dev_inv {w : Word} {s t : State} (hs : s.dev.Inv) (h : runWord w s = .next t) : t.dev.Inv := by
  rcases runWord_outcome h with ⟨c, hr, rfl⟩ | ⟨i, -, ha, rfl⟩
  · exact hs.recordError hr.code_ne_eInvariant
  · exact hs.effect ha

/-- A word leaves a legal response at the port, at the start of its wait (R40, R52). -/
theorem runWord_keeps_port_inv {w : Word} {s t : State} (h : runWord w s = .next t) : t.PortInv := by
  rcases runWord_outcome h with ⟨c, hr, rfl⟩ | ⟨i, -, -, rfl⟩
  · exact ⟨⟨hr.code_ne_eInvariant, fun _ => rfl⟩, Config.latency_pos _⟩
  · exact ⟨⟨by simp, by simp⟩, Config.latency_pos _⟩

/-- A wait of one more edge stays within `LATENCY(cmd)` (R40). -/
theorem State.waitResponse_portInv {s : State} {rsp : Response} {n : Nat} (hl : rsp.Legal) :
    (s.waitResponse rsp n).PortInv := by
  cases hv : s.raisesValid n with
  | true => simpa [State.PortInv, hv] using hl
  | false =>
    have hn : n + 1 < Config.latency s.cmd := by
      simp only [State.raisesValid, Bool.or_eq_false_iff, decide_eq_false_iff_not] at hv
      omega
    simpa [State.PortInv, hv] using ⟨hl, hn⟩

theorem State.offerResponse_portInv {s : State} (h : s.PortInv) (ready : Bool) :
    (s.offerResponse ready).PortInv := by
  cases ready with
  | true => trivial
  | false => exact h

theorem State.reset_inv : State.reset.Inv := ⟨Device.reset_inv, trivial⟩

theorem step_keeps_inv {s t : State} (hs : s.Inv) (h : step s = .next t) : t.Inv := by
  obtain ⟨hdev, hport⟩ := hs
  rcases edge_cases s with ⟨-, he⟩ | ⟨-, -, -, he⟩ | ⟨-, -, -, he⟩ | ⟨-, rsp, n, hp, he⟩ | ⟨-, rsp, hp, he⟩
  · rw [step_of_settles he] at h
    cases h
    exact ⟨Device.reset_inv, trivial⟩
  · rw [step_of_accepts he] at h
    exact ⟨runWord_keeps_dev_inv (s := s.sampled.latchCommand _) hdev h, runWord_keeps_port_inv h⟩
  · rw [step_of_settles he] at h
    cases h
    exact ⟨hdev, hport⟩
  · rw [step_of_settles he] at h
    cases h
    rw [State.PortInv, hp] at hport
    exact ⟨hdev, State.waitResponse_portInv hport.1⟩
  · rw [step_of_settles he] at h
    cases h
    exact ⟨by simpa using hdev, State.offerResponse_portInv (s := s.sampled) hport _⟩

/-! ### Two devices that a host cannot tell apart (R27, R31) -/

/-- While a block is presented all of `buf` is written, so two such devices agree on it. -/
theorem Device.SameVisible.buf_eq {d e : Device} (h : d.SameVisible e) (hfill : d.fill = 64) : d.buf = e.buf := by
  have hbuf := h.buf
  have hfill' : e.fill = 64 := h.fill ▸ hfill
  rw [hfill, hfill'] at hbuf
  apply Vector.toList_inj.1
  rwa [List.take_of_length_le (by simp), List.take_of_length_le (by simp)] at hbuf

/-- The agreement on the bytes of `buf` that are written, byte by byte. -/
theorem Device.SameVisible.buf_getElem {d e : Device} (h : d.SameVisible e) {k : Nat} (hk : k < d.fill.toNat)
    (hk' : k < 64) : d.buf[k] = e.buf[k] := by
  have hget := congrArg (·[k]?) h.buf
  simpa [List.getElem?_take, h.fill ▸ hk, hk, hk'] using hget

theorem Device.SameVisible.status_eq {d e : Device} (h : d.SameVisible e) : d.status = e.status := by
  simp only [Device.status, h.err, h.fill, h.done, h.lpend, h.fin, h.last, h.sv, h.rdy]

theorem Device.SameVisible.counterHalf_eq {d e : Device} (h : d.SameVisible e) (sel : CounterHalf) :
    d.counterHalf sel = e.counterHalf sel := by
  cases sel with
  | bitLenLow | bitLenHigh => simp only [Device.counterHalf, h.bitLen]
  | blkIdxLow | blkIdxHigh => simp only [Device.counterHalf, h.blkIdx]

theorem Device.SameVisible.allows_eq {d e : Device} (h : d.SameVisible e) (i : Instr) : d.allows i = e.allows i := by
  cases i with
  | init | rdcnt | rdstat => rfl
  | pushb | final => simp only [Device.allows, h.fin, h.rdy]
  | expand | next | rdbw => simp only [Device.allows, h.rdy]
  | rdw => simp only [Device.allows, h.sv]

theorem Device.SameVisible.rejects {d e : Device} {i : Instr} {c : RspCode} (h : d.SameVisible e)
    (hr : Rejects i d c) : Rejects i e c := by
  cases hr with
  | halted herr hrun => exact .halted (h.err ▸ herr) hrun
  | sequence herr hallow => exact .sequence (h.err ▸ herr) (h.allows_eq i ▸ hallow)
  | overflow herr hallow hpush hlen =>
    exact .overflow (h.err ▸ herr) (h.allows_eq i ▸ hallow) hpush (h.bitLen ▸ hlen)

theorem Device.SameVisible.rejectsWord {d e : Device} {w : Word} {c : RspCode} (h : d.SameVisible e)
    (hr : RejectsWord w d c) : RejectsWord w e c := by
  cases hr with
  | illegal hd => exact .illegal hd
  | command hd hr => exact .command hd (h.rejects hr)

theorem Device.SameVisible.accepts {d e : Device} {i : Instr} (h : d.SameVisible e) (ha : Accepts i d) :
    Accepts i e where
  running := h.err ▸ ha.running
  allowed := h.allows_eq i ▸ ha.allowed
  push_room := h.bitLen ▸ h.fill ▸ ha.push_room
  final_room := h.fill ▸ ha.final_room

/-- A read sees no unwritten byte or word: RDBW needs `rdy` = 1 and RDW needs `sv` = 1 (R27). -/
theorem Device.SameVisible.reads_eq {d e : Device} {i : Instr} (h : d.SameVisible e) (hd : d.Inv)
    (hallow : d.allows i = true) : d.reads i = e.reads i := by
  cases i with
  | init | pushb | final | expand | next => rfl
  | rdbw j => exact congrArg (blockWord · j) (h.buf_eq (hd.fill_eq_of_rdy hallow))
  | rdw t => exact congrArg (·[t.val]) (h.schedule hallow)
  | rdcnt sel => exact h.counterHalf_eq sel
  | rdstat => exact h.status_eq

theorem Device.SameVisible.recordError {d e : Device} (h : d.SameVisible e) (c : RspCode) :
    (d.recordError c).SameVisible (e.recordError c) := by
  unfold Device.recordError
  rw [← h.err]
  split
  · exact { h with err := rfl }
  · exact h

theorem Device.SameVisible.clearMessage {d e : Device} : d.clearMessage.SameVisible e.clearMessage := by
  constructor <;> simp

/-- Writing byte `n` of a block appends it to the first `n` bytes. -/
theorem take_succ_setIfInBounds (buf : Vector Byte 64) {n : Nat} (b : Byte) (hn : n < 64) :
    (buf.setIfInBounds n b).toList.take (n + 1) = buf.toList.take n ++ [b] := by
  simp [List.take_add_one, List.take_set_of_le, hn]

/-- PUSHB writes the byte after those the devices agree on. -/
theorem Device.SameVisible.pushByte {d e : Device} (h : d.SameVisible e) (b : Byte) (hfill : d.fill.toNat < 64) :
    (d.pushByte b).SameVisible (e.pushByte b) := by
  have hfill' : (d.fill + 1).toNat = d.fill.toNat + 1 := by bv_omega
  refine
    { h with
      bitLen := congrArg (· + 8) h.bitLen
      fill := congrArg (· + 1) h.fill
      rdy := by simp [h.rdy, h.fill]
      buf := ?_ }
  have hbuf := h.buf
  rw [← h.fill] at hbuf
  simp only [pushByte_buf, pushByte_fill, ← h.fill, hfill', take_succ_setIfInBounds _ b hfill, hbuf]

/-- FINAL keeps the written bytes and writes all the others. -/
theorem Device.SameVisible.finalBlock_eq {d e : Device} (h : d.SameVisible e) :
    finalBlock d.buf d.fill.toNat d.bitLen = finalBlock e.buf e.fill.toNat e.bitLen := by
  rw [← h.fill, ← h.bitLen]
  refine Vector.ext fun k hk => ?_
  simp only [finalBlock_getElem]
  split
  next hlt => exact h.buf_getElem hlt hk
  next => rfl

theorem Device.SameVisible.closeMessage {d e : Device} (h : d.SameVisible e) :
    d.closeMessage.SameVisible e.closeMessage :=
  { h with
    fill := rfl
    rdy := rfl
    last := by simp [h.fill]
    fin := rfl
    lpend := by simp [h.fill]
    buf := by rw [closeMessage_buf, closeMessage_buf, h.finalBlock_eq]; rfl }

theorem Device.SameVisible.expandBlock {d e : Device} (h : d.SameVisible e) (hfill : d.fill = 64) :
    d.expandBlock.SameVisible e.expandBlock :=
  { h with
    sv := rfl
    schedule := fun _ => congrArg (expand ∘ blockWords) (h.buf_eq hfill) }

/-- After NEXT `buf` is written whole, or nothing of it is (R69). -/
theorem Device.SameVisible.release {d e : Device} (h : d.SameVisible e) : d.release.SameVisible e.release := by
  have hidx : d.blkIdx + 1 = e.blkIdx + 1 := congrArg (· + 1) h.blkIdx
  cases hp : d.lpend with
  | true =>
    rw [d.release_of_lpend hp, e.release_of_lpend (h.lpend ▸ hp)]
    exact { h with
      blkIdx := hidx, sv := rfl, last := rfl, rdy := rfl, lpend := rfl, fill := rfl
      buf := by rw [h.bitLen]
      schedule := nofun }
  | false =>
    cases hl : d.last with
    | true =>
      rw [d.release_of_last hp hl, e.release_of_last (h.lpend ▸ hp) (h.last ▸ hl)]
      exact { h with
        blkIdx := hidx, sv := rfl, last := rfl, rdy := rfl, fill := rfl, done := rfl, buf := rfl
        schedule := nofun }
    | false =>
      rw [d.release_of_open hp hl, e.release_of_open (h.lpend ▸ hp) (h.last ▸ hl)]
      exact { h with
        blkIdx := hidx, sv := rfl, rdy := rfl, fill := rfl, buf := rfl
        schedule := nofun }

theorem Device.SameVisible.effect {d e : Device} {i : Instr} (h : d.SameVisible e) (hd : d.Inv)
    (ha : Accepts i d) : (d.effect i).SameVisible (e.effect i) := by
  cases i with
  | init => exact .clearMessage
  | pushb b => exact h.pushByte b (ha.push_room b rfl).2
  | final => exact h.closeMessage
  | expand => exact h.expandBlock (hd.fill_eq_of_rdy ha.allowed)
  | next => exact h.release
  | rdbw | rdw | rdcnt | rdstat => exact h

/-! ### The counters (R15, R16) -/

theorem Device.Inv.effect_bitLen {d : Device} {i : Instr} (h : d.Inv) (ha : Accepts i d) (hi : i ≠ .init) :
    d.bitLen.toNat ≤ (d.effect i).bitLen.toNat ∧ (d.effect i).bitLen.toNat ≤ d.bitLen.toNat + 8 := by
  cases i with
  | init => contradiction
  | pushb b =>
    have hroom := h.bitLen_room (ha.push_room b rfl).1
    have hlen : (d.bitLen + 8).toNat = d.bitLen.toNat + 8 := by bv_omega
    simp only [Device.effect, pushByte_bitLen, hlen]
    omega
  | final | expand | next | rdbw | rdw | rdcnt | rdstat => simp [Device.effect]

theorem Device.Inv.effect_blkIdx {d : Device} {i : Instr} (h : d.Inv) (hi : i ≠ .init) :
    d.blkIdx.toNat ≤ (d.effect i).blkIdx.toNat ∧ (d.effect i).blkIdx.toNat ≤ d.blkIdx.toNat + 1 := by
  cases i with
  | init => contradiction
  | next =>
    have hle := h.blkIdx_le
    have hidx : (d.blkIdx + 1).toNat = d.blkIdx.toNat + 1 := by bv_omega
    simp only [Device.effect, release_blkIdx, hidx]
    omega
  | pushb | final | expand | rdbw | rdw | rdcnt | rdstat => simp [Device.effect]

/-! ### What a command leaves in `err` and in the phase (R25, R26) -/

/-- Only INIT writes `err` when it is accepted (R13). -/
theorem Device.effect_err {i : Instr} (d : Device) (hi : i ≠ .init) : (d.effect i).err = d.err := by
  cases i with
  | init => contradiction
  | next => exact d.release_err
  | pushb | final | expand | rdbw | rdw | rdcnt | rdstat => rfl

theorem RspCode.bits_ne_zero {c : RspCode} (hc : c ≠ .ok) : c.bits ≠ 0 := by
  cases c with
  | ok => contradiction
  | eIllegal | eSeq | eLenOvf | eHalted | eInvariant => decide

/-- After a rejection `err` holds a code: its own or an earlier one (R96). -/
theorem Device.recordError_err_ne_zero {d : Device} {c : RspCode} (hc : c ≠ .ok)
    (hh : c = .eHalted → d.err ≠ 0) : (d.recordError c).err ≠ 0 := by
  by_cases herr : d.err = 0
  · rw [recordError_first d c herr fun h => hh h herr]
    exact RspCode.bits_ne_zero hc
  · rwa [recordError_of_err d c herr]

theorem Rejects.recordError_err {i : Instr} {d : Device} {c : RspCode} (h : Rejects i d c) :
    (d.recordError c).err ≠ 0 :=
  Device.recordError_err_ne_zero h.code_ne_ok (by rintro rfl; exact h.err_ne_zero)

theorem RejectsWord.recordError_err {w : Word} {d : Device} {c : RspCode} (h : RejectsWord w d c) :
    (d.recordError c).err ≠ 0 :=
  Device.recordError_err_ne_zero h.code_ne_ok (by rintro rfl; exact h.err_ne_zero)

theorem Device.phase_halted {d : Device} (h : d.err ≠ 0) : d.phase = .halted := if_pos h

/-- While `err` = 0 the phase is a function of `done` and `fin` (R26). -/
theorem Device.phase_of_err {d : Device} (h : d.err = 0) :
    d.phase = if d.done then .done else if d.fin then .pad else .absorb := by
  simp [Device.phase, h]

theorem Device.phase_congr {d e : Device} (herr : e.err = d.err) (hdone : e.done = d.done) (hfin : e.fin = d.fin) :
    e.phase = d.phase := by
  simp only [Device.phase, herr, hdone, hfin]

/-- NEXT keeps the phase, or ends the message (R26, R69). -/
theorem Device.Inv.release_phase {d : Device} (h : d.Inv) (herr : d.err = 0) :
    d.release.phase = d.phase ∨ (d.phase = .pad ∧ d.release.phase = .done) := by
  cases hp : d.lpend with
  | true =>
    rw [d.release_of_lpend hp]
    exact .inl (Device.phase_congr rfl rfl rfl)
  | false =>
    cases hl : d.last with
    | true =>
      obtain ⟨hr, hf⟩ := h.last_rdy hl
      have hd : d.done = false := h.done_of_rdy hr
      rw [d.release_of_last hp hl]
      exact .inr ⟨by simp [phase_of_err herr, hd, hf], by simp [phase_of_err, herr]⟩
    | false =>
      rw [d.release_of_open hp hl]
      exact .inl (Device.phase_congr rfl rfl rfl)

/-- An accepted command other than INIT keeps the phase or advances it (R26). -/
theorem Device.Inv.effect_phase {d : Device} {i : Instr} (h : d.Inv) (ha : Accepts i d) (hi : i ≠ .init) :
    (d.effect i).phase = d.phase ∨ (d.phase = .absorb ∧ (d.effect i).phase = .pad ∧ i = .final) ∨
      (d.phase = .pad ∧ (d.effect i).phase = .done ∧ i = .next) := by
  have hallow := ha.allowed
  cases i with
  | init => contradiction
  | final =>
    have herr : d.err = 0 := ha.running.resolve_right (by decide)
    obtain ⟨hf, -⟩ : d.fin = false ∧ d.rdy = false := by simpa [Device.allows] using hallow
    obtain ⟨-, -, hd⟩ := h.flags_of_open hf
    exact .inr (.inl ⟨by simp [phase_of_err herr, hd, hf], by simp [Device.effect, phase_of_err, herr, hd], rfl⟩)
  | next =>
    rcases h.release_phase (ha.running.resolve_right (by decide)) with hsame | ⟨hpad, hdone⟩
    · exact .inl hsame
    · exact .inr (.inr ⟨hpad, hdone, rfl⟩)
  | pushb | expand => exact .inl (Device.phase_congr rfl rfl rfl)
  | rdbw | rdw | rdcnt | rdstat => exact .inl rfl

/-- Once the message is done, R91 allows INIT, RDCNT and RDSTAT only. -/
theorem Device.Inv.not_allows_of_done {d : Device} {i : Instr} (h : d.Inv) (hd : d.done = true) (hi : i ≠ .init)
    (hc : ∀ sel, i ≠ .rdcnt sel) (hs : i ≠ .rdstat) : d.allows i = false := by
  obtain ⟨hf, hr, -, -⟩ := h.done_fin hd
  cases i with
  | init | rdstat => contradiction
  | rdcnt sel => exact absurd rfl (hc sel)
  | pushb | final => simp [allows, hf]
  | expand | next | rdbw => exact hr
  | rdw => exact h.sv_of_not_rdy hr

/-- A closed message stays closed and keeps its length (R22, R64). -/
theorem Accepts.closed {d : Device} {i : Instr} (ha : Accepts i d) (hf : d.fin = true) (hi : i ≠ .init) :
    (d.effect i).fin = true ∧ (d.effect i).bitLen = d.bitLen := by
  cases i with
  | init => contradiction
  | pushb b => simpa [Device.allows, hf] using ha.allowed
  | final | expand | next | rdbw | rdw | rdcnt | rdstat => simp [Device.effect, hf]

/-! ### Runs of words (R25, R96) -/

theorem withArgument_eq_ok {n : Nat} {w : Word} {i j : Instr} :
    withArgument n w i = .ok j ↔ argFits n w = true ∧ i = j := by
  unfold withArgument
  split <;> simp [*]

/-- A word is its two fields (R51). -/
theorem toNat_eq_fields (w : Word) : w.toNat = 2 ^ 24 * (opField w).toNat + (argField w).toNat := by
  simp only [opField, argField, BitVec.extractLsb'_toNat, Nat.shiftRight_eq_div_pow]
  omega

/-- INIT has one word (R55). -/
theorem eq_of_decode_init {w : Word} (h : decode w = .ok .init) : w = 0x01000000 := by
  have hop : opField w = 0x01 := by
    by_contra hop
    simp only [decode, if_neg hop] at h
    split_ifs at h <;> simp [withArgument_eq_ok] at h
  rw [decode, if_pos hop, withArgument_eq_ok] at h
  have harg : argField w = 0 := by simpa [argFits] using h.1
  apply BitVec.eq_of_toNat_eq
  rw [toNat_eq_fields, hop, harg]
  rfl

/-- Inversion of `transact`: the word is rejected, or it decodes to a command that is accepted. -/
theorem transact_outcome {w : Word} {s t : State} {rsp : Response} (h : transact w s = some (t, rsp)) :
    (∃ c, RejectsWord w s.dev c ∧ rsp = ⟨c, 0⟩ ∧ t.dev = s.dev.recordError c) ∨
    (∃ i, decode w = .ok i ∧ Accepts i s.dev ∧ rsp = ⟨.ok, s.dev.reads i⟩ ∧ t.dev = s.dev.effect i) := by
  unfold transact at h
  split at h
  next u hu =>
    rcases runWord_outcome hu with ⟨c, hr, rfl⟩ | ⟨i, hd, ha, rfl⟩
    · cases h
      exact .inl ⟨c, hr, rfl, rfl⟩
    · cases h
      exact .inr ⟨i, hd, ha, rfl, rfl⟩
  all_goals cases h

theorem transact_err {w : Word} {s t : State} {rsp : Response} (hw : w ≠ 0x01000000)
    (h : transact w s = some (t, rsp)) : t.dev.err = 0 ↔ s.dev.err = 0 ∧ rsp.code = .ok := by
  rcases transact_outcome h with ⟨c, hr, rfl, ht⟩ | ⟨i, hd, -, rfl, ht⟩
  · simp only [ht, hr.recordError_err, hr.code_ne_ok, and_false]
  · have hi : i ≠ .init := by
      rintro rfl
      exact hw (eq_of_decode_init hd)
    simp only [ht, Device.effect_err _ hi, and_true]

theorem afterWords_cons_eq_some {w : Word} {ws : List Word} {s t : State} (h : afterWords (w :: ws) s = some t) :
    ∃ s' rsp, transact w s = some (s', rsp) ∧ afterWords ws s' = some t := by
  cases hw : transact w s with
  | none => simp only [afterWords, hw, reduceCtorEq] at h
  | some p => exact ⟨p.1, p.2, rfl, by rwa [afterWords_cons ws hw] at h⟩

/-- A run without INIT ends with `err` = 0 exactly when it began so and no word of it was rejected. -/
theorem afterWords_err {ws : List Word} {s t : State} (hws : ∀ w ∈ ws, w ≠ 0x01000000)
    (h : afterWords ws s = some t) :
    t.dev.err = 0 ↔ s.dev.err = 0 ∧ ∀ p ∈ transcript ws s, p.2.code = .ok := by
  induction ws generalizing s with
  | nil => cases h; simp
  | cons w ws ih =>
    obtain ⟨s', rsp, hstep, hrest⟩ := afterWords_cons_eq_some h
    rw [List.forall_mem_cons] at hws
    rw [transcript_cons ws hstep, List.forall_mem_cons, ih hws.2 hrest, transact_err hws.1 hstep, and_assoc]

/-! ### The statements of 10_state.md -/

/-- Settles O37, by the kinds of edge and, at an accepting edge, by the effect of each command. -/
theorem stepKeepsInvariant : Obligations.StepKeepsInvariant := fun _ _ hs h => step_keeps_inv hs h

/-- Settles O39: the checks, the reads and the effects look at written bytes and words only. -/
theorem unwrittenContentsNeverObserved : Obligations.UnwrittenContentsNeverObserved := by
  intro w s r s' hs hv h
  rcases runWord_outcome h with ⟨c, hr, rfl⟩ | ⟨i, hd, ha, rfl⟩
  · exact ⟨_, runWord_of_rejectsWord (hv.rejectsWord hr), rfl, hv.recordError c⟩
  · refine ⟨_, (runWord_of_ok r hd).trans (exec_of_accepts (hv.accepts ha)), ?_, hv.effect hs ha⟩
    rw [State.complete_answer, State.complete_answer, hv.reads_eq hs ha.allowed]

/-- Settles O38: the invariant bounds the counters, and each effect advances them by one unit at most. -/
theorem countersNeverWrap : Obligations.CountersNeverWrap := by
  intro i s t hs h
  have ht := exec_keeps_dev_inv hs h
  refine ⟨ht.bitLen_le, ht.blkIdx_le, fun hi => ?_⟩
  rcases exec_outcome h with ⟨c, -, rfl⟩ | ⟨ha, rfl⟩
  · simp
  · obtain ⟨hlen, hlen'⟩ := hs.effect_bitLen ha hi
    exact ⟨hlen, hlen', hs.effect_blkIdx hi⟩

/-- Settles O45: a rejection touches `err` alone, and each effect is a frame of the fields it does not own. -/
theorem fieldsWrittenByTheirOwners : Obligations.FieldsWrittenByTheirOwners := by
  intro i s t h
  rcases exec_outcome h with ⟨c, hr, rfl⟩ | ⟨-, rfl⟩
  · simp [hr.code_ne_ok]
  · cases i with
    | init | pushb | final | expand | next | rdbw | rdw | rdcnt | rdstat => simp [Device.effect]

/-- Settles O47: `done` leaves `rdy` = `sv` = 0 and `fin` = 1, so R91 denies the other commands. -/
theorem doneEndsTheMessage : Obligations.DoneEndsTheMessage := by
  intro s hs hdone herr i hi
  have denied (hc : ∀ sel, i ≠ .rdcnt sel) (hst : i ≠ .rdstat) : exec i s = .next (s.raise .eSeq) :=
    exec_of_rejects (.sequence herr (hs.not_allows_of_done hdone hi hc hst))
  have hdev : (s.raise .eSeq).dev = { s.dev with err := 2 } := recordError_first s.dev .eSeq herr (by decide)
  cases i with
  | init => contradiction
  | rdstat => exact ⟨_, _, rfl, rfl, hdone, rfl, rfl⟩
  | rdcnt sel =>
    have ha : Accepts (.rdcnt sel) s.dev := ⟨.inl herr, rfl, nofun, nofun⟩
    exact ⟨_, _, exec_of_accepts ha, rfl, hdone, rfl, rfl⟩
  | pushb | final | expand | next | rdbw | rdw =>
    exact ⟨_, _, denied nofun nofun, rfl, by simpa using hdone, rfl, hdev⟩

/-- Settles O48: PUSHB is denied, and no other command but INIT writes the length or clears `fin`. -/
theorem messageClosedByFinal : Obligations.MessageClosedByFinal := by
  intro i s t hf hi h
  rcases exec_outcome h with ⟨c, -, rfl⟩ | ⟨ha, rfl⟩
  · simpa using hf
  · exact ha.closed hf hi

/-- Settles O50, by induction on the run. -/
theorem errorRecordsAnyRejection : Obligations.ErrorRecordsAnyRejection := by
  intro ws s t herr hws h
  rw [afterWords_err hws h]
  exact and_iff_right herr

/-- Settles O52: a rejection halts, FINAL and NEXT advance the phase, and the other commands keep it. -/
theorem phasesAdvanceInOrder : Obligations.PhasesAdvanceInOrder := by
  intro i s t hs h
  rcases exec_outcome h with ⟨c, hr, rfl⟩ | ⟨ha, rfl⟩
  · refine ⟨?_, fun _ => .inr (.inr (.inr (Device.phase_halted hr.recordError_err)))⟩
    rintro rfl
    exact absurd hr not_rejects_init
  · refine ⟨?_, fun hi => ?_⟩
    · rintro rfl
      rfl
    · rcases hs.effect_phase ha hi with hsame | hfinal | hnext
      · exact .inl hsame
      · exact .inr (.inl hfinal)
      · exact .inr (.inr (.inl hnext))

/-- Settles O36: every flag and counter is 0 and the port is idle, which is all the invariant looks at. -/
theorem resetMeetsInvariant : Obligations.ResetMeetsInvariant := State.reset_inv

end Sys2Proof.Machine

namespace Sys2Proof.Machine

/-! ### Every word is answered, and its answer depends on the device alone (R41, R42) -/

/-- Under the invariant the checks of R98 decide every command: FINAL and PUSHB find the byte they write. -/
theorem Device.Inv.accepts_or_rejects {d : Device} (h : d.Inv) (i : Instr) : Accepts i d ∨ ∃ c, Rejects i d c := by
  have byte_exists (hallow : (!d.fin && !d.rdy) = true) : d.fill.toNat < 64 := by
    simp only [Bool.and_eq_true, Bool.not_eq_true'] at hallow
    exact h.fill_lt_of_not_rdy hallow.2
  by_cases hrun : d.err = 0 ∨ runsHalted i = true
  · cases hallow : d.allows i with
    | false =>
      have herr : d.err = 0 := hrun.resolve_right (by simp [runsHalted_of_not_allows hallow])
      exact .inr ⟨_, .sequence herr hallow⟩
    | true =>
      cases i with
      | pushb b =>
        by_cases hlen : d.bitLen = Config.maxBitLen
        · exact .inr ⟨_, .overflow (hrun.resolve_right (by simp [runsHalted])) hallow ⟨b, rfl⟩ hlen⟩
        · exact .inl ⟨hrun, hallow, fun _ _ => ⟨hlen, byte_exists hallow⟩, nofun⟩
      | final => exact .inl ⟨hrun, hallow, nofun, fun _ => byte_exists hallow⟩
      | init | expand | next | rdbw | rdw | rdcnt | rdstat => exact .inl ⟨hrun, hallow, nofun, nofun⟩
  · obtain ⟨herr, hhalt⟩ := not_or.1 hrun
    exact .inr ⟨_, .halted herr (by simpa using hhalt)⟩

/-- In every state with device `d` the word leaves device `e` and response `rsp`, and changes nothing else. -/
def AnswersWith (w : Word) (d e : Device) (rsp : Response) : Prop :=
  ∀ s : State, s.dev = d → runWord w s = .next { s with dev := e, port := .busy rsp 0 }

theorem RejectsWord.answersWith {w : Word} {d : Device} {c : RspCode} (h : RejectsWord w d c) :
    AnswersWith w d (d.recordError c) ⟨c, 0⟩ := by
  rintro s rfl
  exact runWord_of_rejectsWord h

theorem Accepts.answersWith {w : Word} {d : Device} {i : Instr} (h : Accepts i d) (hd : decode w = .ok i) :
    AnswersWith w d (d.effect i) ⟨.ok, d.reads i⟩ := by
  rintro s rfl
  exact (runWord_of_ok s hd).trans (exec_of_accepts h)

theorem AnswersWith.transact {w : Word} {d e : Device} {rsp : Response} (h : AnswersWith w d e rsp) {s : State}
    (hs : s.dev = d) : transact w s = some ({ s with dev := e, cmd := w, port := .idle }, rsp) :=
  transact_of_next (h (s.latchCommand w) hs) rfl

/-- Under the invariant every word is answered (R42). -/
theorem Device.Inv.answersWith {d : Device} (h : d.Inv) (w : Word) :
    ∃ (e : Device) (rsp : Response), e.Inv ∧ AnswersWith w d e rsp := by
  have rejected {c : RspCode} (hr : RejectsWord w d c) : ∃ e rsp, e.Inv ∧ AnswersWith w d e rsp :=
    ⟨_, _, h.recordError hr.code_ne_eInvariant, hr.answersWith⟩
  cases hd : decode w with
  | error e => exact rejected (.illegal hd)
  | ok i =>
    rcases h.accepts_or_rejects i with ha | ⟨c, hr⟩
    · exact ⟨_, _, h.effect ha, ha.answersWith hd⟩
    · exact rejected (.command hd hr)

/-- The responses to a run of words depend on the device alone: not on the port, the inputs or the timing (R44). -/
theorem transcript_congr {s r : State} (hs : s.dev.Inv) (h : r.dev = s.dev) (ws : List Word) :
    transcript ws r = transcript ws s := by
  induction ws generalizing s r with
  | nil => rfl
  | cons w ws ih =>
    obtain ⟨e, rsp, he, hw⟩ := hs.answersWith w
    rw [transcript_cons ws (hw.transact rfl), transcript_cons ws (hw.transact h)]
    exact congrArg _ (ih he rfl)

theorem transcript_words {s : State} (hs : s.dev.Inv) (ws : List Word) : (transcript ws s).map Prod.fst = ws := by
  induction ws generalizing s with
  | nil => rfl
  | cons w ws ih =>
    obtain ⟨e, rsp, he, hw⟩ := hs.answersWith w
    rw [transcript_cons ws (hw.transact rfl), List.map_cons, ih he]

theorem transcript_length {s : State} (hs : s.dev.Inv) (ws : List Word) : (transcript ws s).length = ws.length := by
  simpa using congrArg List.length (transcript_words hs ws)

theorem afterWords_isSome {s : State} (hs : s.dev.Inv) (ws : List Word) : (afterWords ws s).isSome = true := by
  induction ws generalizing s with
  | nil => rfl
  | cons w ws ih =>
    obtain ⟨e, rsp, he, hw⟩ := hs.answersWith w
    rw [afterWords_cons ws (hw.transact rfl)]
    exact ih he

/-! ### The edges of the port (R40, R41) -/

theorem edge_of_offered {s : State} (hp : s.port = .idle) (hr : s.input.rst = false) (hv : s.input.cmdValid = true) :
    s.edge = .accepts s.input.cmdData (s.sampled.latchCommand s.input.cmdData) := by
  simp [State.edge, hp, hr, hv]

theorem edge_of_offering {s : State} {rsp : Response} (hp : s.port = .offering rsp) (hr : s.input.rst = false) :
    s.edge = .settles (s.sampled.offerResponse s.input.rspReady) := by
  simp [State.edge, hp, hr]

theorem edge_of_busy {s : State} {rsp : Response} {n : Nat} (hp : s.port = .busy rsp n) (hr : s.input.rst = false) :
    s.edge = .settles (s.sampled.waitResponse rsp n) := by
  simp [State.edge, hp, hr]

theorem State.taken_of_rspOut_none {s : State} (h : s.rspOut = none) : s.taken = none := by
  simp [State.taken, h]

theorem State.rspOut_of_idle {s : State} (h : s.port = .idle) : s.rspOut = none := by
  simp [State.rspOut, h]

theorem State.rspOut_of_busy {s : State} {rsp : Response} {n : Nat} (h : s.port = .busy rsp n) : s.rspOut = none := by
  simp [State.rspOut, h]

/-- An offered response is taken exactly at an edge with `rsp_ready` = 1 (R40). -/
theorem State.taken_of_offering {s : State} {rsp : Response} (hp : s.port = .offering rsp) (hr : s.input.rst = false) :
    s.taken = if s.input.rspReady then some (s.cmd, rsp) else none := by
  simp [State.taken, hr, State.rspOut_of_offering hp]

/-- The first of the coming edges does not reset, nor do the others. -/
theorem State.rst_low_succ {s : State} {n : Nat} (h : ∀ p ∈ s.pins.take (n + 1), p.rst = false) :
    s.input.rst = false ∧ ∀ p ∈ s.pins.tail.take n, p.rst = false := by
  unfold State.input
  cases hp : s.pins with
  | nil => exact ⟨rfl, by simp⟩
  | cons p ps => simpa [hp] using h

/-! ### The port refines the run of the accepted words (R40, R41, R44) -/

/-- The outstanding command with its response, which the host has not taken yet (R41). -/
def State.pending (s : State) : Option (Word × Response) :=
  match s.port with
  | .idle => none
  | .busy rsp _ => some (s.cmd, rsp)
  | .offering rsp => some (s.cmd, rsp)

theorem State.pending_of_idle {s : State} (h : s.port = .idle) : s.pending = none := by
  simp [State.pending, h]

theorem State.pending_of_busy {s : State} {rsp : Response} {n : Nat} (h : s.port = .busy rsp n) :
    s.pending = some (s.cmd, rsp) := by
  simp [State.pending, h]

theorem State.pending_of_offering {s : State} {rsp : Response} (h : s.port = .offering rsp) :
    s.pending = some (s.cmd, rsp) := by
  simp [State.pending, h]

theorem State.waitResponse_pending (s : State) (rsp : Response) (n : Nat) :
    (s.waitResponse rsp n).pending = some (s.cmd, rsp) := by
  cases hv : s.raisesValid n with
  | true => exact State.pending_of_offering (by simp [hv])
  | false => exact State.pending_of_busy (n := n + 1) (by simp [hv])

/-- An edge without reset accepts a word at an idle port, or it leaves the device and hands the host what the port no
longer holds. -/
theorem edge_serves {s : State} (hr : s.input.rst = false) :
    (∃ w, s.port = .idle ∧ s.edge = .accepts w (s.sampled.latchCommand w)) ∨
    (∃ t, s.edge = .settles t ∧ t.dev = s.dev ∧ t.pins = s.pins.tail ∧
      s.pending.toList = s.taken.toList ++ t.pending.toList) := by
  rcases edge_cases s with ⟨hr', -⟩ | ⟨-, hp, -, he⟩ | ⟨-, hp, -, he⟩ | ⟨-, rsp, n, hp, he⟩ | ⟨-, rsp, hp, he⟩
  · simp [hr] at hr'
  · exact .inl ⟨_, hp, he⟩
  · refine .inr ⟨_, he, rfl, rfl, ?_⟩
    rw [State.taken_of_rspOut_none (State.rspOut_of_idle hp)]
    rfl
  · refine .inr ⟨_, he, rfl, rfl, ?_⟩
    rw [State.taken_of_rspOut_none (State.rspOut_of_busy hp), State.pending_of_busy hp, State.waitResponse_pending]
    rfl
  · refine .inr ⟨_, he, by simp, by simp, ?_⟩
    rw [State.taken_of_offering hp hr, State.pending_of_offering hp]
    cases s.input.rspReady with
    | true => rfl
    | false => exact congrArg Option.toList (State.pending_of_offering (s := s.sampled) hp).symm

theorem acceptedWords_of_accepts {s u t : State} {w : Word} (n : Nat) (he : s.edge = .accepts w u)
    (h : step s = .next t) : acceptedWords (n + 1) s = w :: acceptedWords n t := by
  simp [acceptedWords, he, h]

theorem acceptedWords_of_settles {s t : State} (n : Nat) (he : s.edge = .settles t) :
    acceptedWords (n + 1) s = acceptedWords n t := by
  simp [acceptedWords, he, step_of_settles he]

theorem observations_of_next {s t : State} (n : Nat) (h : step s = .next t) :
    observations (n + 1) s = s.taken.toList ++ observations n t := by
  simp [observations, h]

/-- A step that accepts a word leaves it outstanding, with the response that the word gets in a run of words. -/
theorem step_serves {s : State} {w : Word} (hs : s.dev.Inv) (he : s.edge = .accepts w (s.sampled.latchCommand w)) :
    ∃ (t : State) (rsp : Response), step s = .next t ∧ t.dev.Inv ∧ t.pins = s.pins.tail ∧
      t.pending = some (w, rsp) ∧ ∀ ws, transcript (w :: ws) s = (w, rsp) :: transcript ws t := by
  obtain ⟨e, rsp, hinv, hw⟩ := hs.answersWith w
  refine ⟨_, rsp, (step_of_accepts he).trans (hw _ rfl), hinv, rfl, rfl, fun ws => ?_⟩
  rw [transcript_cons ws (hw.transact rfl)]
  refine congrArg _ (transcript_congr ?_ ?_ ws)
  exacts [hinv, rfl]

/-- What is outstanding at first and what the accepted words answer is what the host takes and what is outstanding at
last. -/
theorem pending_append_transcript (n : Nat) (s : State) (hs : s.dev.Inv)
    (hrst : ∀ p ∈ s.pins.take n, p.rst = false) :
    ∃ last : Option (Word × Response),
      s.pending.toList ++ transcript (acceptedWords n s) s = observations n s ++ last.toList := by
  induction n generalizing s with
  | zero => exact ⟨s.pending, by simp [acceptedWords, observations]⟩
  | succ n ih =>
    obtain ⟨hr, hrest⟩ := State.rst_low_succ hrst
    rcases edge_serves hr with ⟨w, hp, he⟩ | ⟨t, he, hdev, hpins, hpend⟩
    · obtain ⟨t, rsp, hstep, ht, hpins, hpend, hanswer⟩ := step_serves hs he
      obtain ⟨last, hlast⟩ := ih t ht (hpins ▸ hrest)
      refine ⟨last, ?_⟩
      rw [hpend] at hlast
      rw [acceptedWords_of_accepts n he hstep, observations_of_next n hstep, State.pending_of_idle hp,
        State.taken_of_rspOut_none (State.rspOut_of_idle hp), hanswer]
      exact hlast
    · obtain ⟨last, hlast⟩ := ih t (hdev ▸ hs) (hpins ▸ hrest)
      refine ⟨last, ?_⟩
      rw [acceptedWords_of_settles n he, observations_of_next n (step_of_settles he), hpend,
        ← transcript_congr hs hdev, List.append_assoc, hlast, List.append_assoc]

/-! ### A command word read back (R51, R55, R62) -/

theorem commandWord_toNat {n : Nat} (hn : n ≤ 24) (op : Byte) (x : BitVec n) :
    (commandWord op (x.setWidth 32)).toNat = 2 ^ 24 * op.toNat + x.toNat := by
  have hx : x.toNat < 2 ^ 24 := x.isLt.trans_le (Nat.pow_le_pow_right (by decide) hn)
  have hop := op.isLt
  rw [commandWord, BitVec.toNat_or, BitVec.toNat_shiftLeft, BitVec.toNat_setWidth, BitVec.toNat_setWidth,
    Nat.shiftLeft_eq, Nat.mod_eq_of_lt (by omega), Nat.mod_eq_of_lt (by omega), Nat.mod_eq_of_lt (by omega),
    Nat.mul_comm, Nat.two_pow_add_eq_or_of_lt hx]

theorem opField_commandWord {n : Nat} (hn : n ≤ 24) (op : Byte) (x : BitVec n) :
    opField (commandWord op (x.setWidth 32)) = op := by
  have hx : x.toNat < 2 ^ 24 := x.isLt.trans_le (Nat.pow_le_pow_right (by decide) hn)
  have h := toNat_eq_fields (commandWord op (x.setWidth 32))
  rw [commandWord_toNat hn] at h
  apply BitVec.eq_of_toNat_eq
  have := (argField (commandWord op (x.setWidth 32))).isLt
  omega

theorem argField_commandWord {n : Nat} (hn : n ≤ 24) (op : Byte) (x : BitVec n) :
    (argField (commandWord op (x.setWidth 32))).toNat = x.toNat := by
  have h := toNat_eq_fields (commandWord op (x.setWidth 32))
  rw [commandWord_toNat hn, opField_commandWord hn] at h
  omega

theorem withArgument_commandWord {n : Nat} (hn : n ≤ 24) (op : Byte) (x : BitVec n) (i : Instr) :
    withArgument n (commandWord op (x.setWidth 32)) i = .ok i := by
  have hfits : argField (commandWord op (x.setWidth 32)) >>> n = 0 := by
    apply BitVec.eq_of_toNat_eq
    rw [BitVec.toNat_ushiftRight, argField_commandWord hn, Nat.shiftRight_eq_div_pow, Nat.div_eq_of_lt x.isLt]
    rfl
  exact withArgument_eq_ok.2 ⟨by simp [argFits, hfits], rfl⟩

theorem operand_commandWord {n : Nat} (hn : n ≤ 24) (op : Byte) (x : BitVec n) :
    (commandWord op (x.setWidth 32)).extractLsb' 0 n = x := by
  apply BitVec.eq_of_toNat_eq
  obtain ⟨c, hc⟩ := pow_dvd_pow 2 hn
  rw [BitVec.extractLsb'_toNat, Nat.shiftRight_zero, commandWord_toNat hn, hc, mul_assoc, Nat.mul_add_mod,
    Nat.mod_eq_of_lt x.isLt]

theorem CounterHalf.ofField_code (sel : CounterHalf) : CounterHalf.ofField sel.code = sel := by
  cases sel <;> rfl

theorem decode_encode (i : Instr) : decode (encode i) = .ok i := by
  cases i with
  | init | final | expand | next | rdstat => rfl
  | pushb b =>
    have h8 : 8 ≤ 24 := by decide
    simp [encode, decode, opField_commandWord h8, withArgument_commandWord h8, operand_commandWord h8]
  | rdbw j =>
    have h4 : 4 ≤ 24 := by decide
    have hj : BitVec.ofNat 32 j = (BitVec.ofFin (w := 4) j).setWidth 32 := BitVec.ofNat_toNat 32 (.ofFin (w := 4) j)
    simp [encode, decode, hj, opField_commandWord h4, withArgument_commandWord h4, operand_commandWord h4]
  | rdw t =>
    have h6 : 6 ≤ 24 := by decide
    have ht : BitVec.ofNat 32 t = (BitVec.ofFin (w := 6) t).setWidth 32 := BitVec.ofNat_toNat 32 (.ofFin (w := 6) t)
    simp [encode, decode, ht, opField_commandWord h6, withArgument_commandWord h6, operand_commandWord h6]
  | rdcnt sel =>
    have h2 : 2 ≤ 24 := by decide
    simp [encode, decode, opField_commandWord h2, withArgument_commandWord h2, operand_commandWord h2,
      CounterHalf.ofField_code]

/-! ### A step of the port, and what a rejected word records (R40, R90, R96) -/

/-- E_ILLEGAL is recorded in `err`, unless it holds a code already (R96). -/
theorem recordError_eIllegal (d : Device) :
    d.recordError .eIllegal = { d with err := if d.err = 0 then 1 else d.err } := by
  by_cases h : d.err = 0
  · rw [recordError_first d .eIllegal h (by decide), if_pos h]
    rfl
  · rw [recordError_of_err d .eIllegal h, if_neg h]

theorem step_of_offered {s : State} (hp : s.port = .idle) (hr : s.input.rst = false) (hv : s.input.cmdValid = true) :
    step s = runWord s.input.cmdData (s.sampled.latchCommand s.input.cmdData) :=
  step_of_accepts (edge_of_offered hp hr hv)

/-- An offered response leaves the port when the host is ready for it, and nothing else changes (R40). -/
theorem step_of_offering {s : State} {rsp : Response} (hp : s.port = .offering rsp) (hr : s.input.rst = false) :
    step s = .next (s.sampled.offerResponse s.input.rspReady) :=
  step_of_settles (edge_of_offering hp hr)

@[simp] theorem State.offerResponse_input (s : State) (ready : Bool) : (s.offerResponse ready).input = s.input := by
  simp [State.input]

/-! ### The bound on the wait (R40) -/

theorem run_succ {s t : State} (k : Nat) (h : step s = .next t) :
    Host.Core.run Sys2Proof.core (k + 1) s = Host.Core.run Sys2Proof.core k t := by
  have hcore : Sys2Proof.core.step s = .next t := h
  simp only [Host.Core.run, hcore]

theorem run_one {s t : State} (h : step s = .next t) : Host.Core.run Sys2Proof.core 1 s = .next t :=
  run_succ 0 h

/-- The response is offered after 1 to `m` edges, with the device as it is now. -/
def State.OffersWithin (s : State) (rsp : Response) (m : Nat) : Prop :=
  ∃ (k : Nat) (t : State), 1 ≤ k ∧ k ≤ m ∧ Host.Core.run Sys2Proof.core k s = .next t ∧
    t.port = .offering rsp ∧ t.dev = s.dev ∧ t.cmd = s.cmd ∧ t.pins = s.pins.drop k

theorem State.OffersWithin.of_step {s t : State} {rsp : Response} {m : Nat} (hm : 1 ≤ m) (h : step s = .next t)
    (hport : t.port = .offering rsp) (hdev : t.dev = s.dev) (hcmd : t.cmd = s.cmd) (hpins : t.pins = s.pins.tail) :
    s.OffersWithin rsp m :=
  ⟨1, t, le_rfl, hm, run_one h, hport, hdev, hcmd, hpins.trans List.drop_one.symm⟩

theorem State.OffersWithin.after_step {s t : State} {rsp : Response} {m : Nat} (ht : t.OffersWithin rsp m)
    (h : step s = .next t) (hdev : t.dev = s.dev) (hcmd : t.cmd = s.cmd) (hpins : t.pins = s.pins.tail) :
    s.OffersWithin rsp (m + 1) := by
  obtain ⟨k, u, -, hk, hrun, hport, hdev', hcmd', hpins'⟩ := ht
  refine ⟨k + 1, u, by omega, by omega, (run_succ k h).trans hrun, hport, hdev'.trans hdev, hcmd'.trans hcmd, ?_⟩
  rw [hpins', hpins, List.drop_tail]

/-- A busy port offers its response within what is left of `LATENCY(cmd)`, by induction on what is left. -/
theorem offersWithin_of_busy {m : Nat} {s : State} {rsp : Response} {waited : Nat} (hp : s.port = .busy rsp waited)
    (hleft : Config.latency s.cmd = waited + (m + 1)) (hrst : ∀ p ∈ s.pins.take (m + 1), p.rst = false) :
    s.OffersWithin rsp (m + 1) := by
  induction m generalizing s waited with
  | zero =>
    obtain ⟨hr, -⟩ := State.rst_low_succ hrst
    have hlast : s.sampled.raisesValid waited = true := by simp [State.raisesValid, hleft]
    exact .of_step le_rfl (step_of_settles (edge_of_busy hp hr)) (by simp [hlast]) rfl rfl rfl
  | succ m ih =>
    obtain ⟨hr, hrest⟩ := State.rst_low_succ hrst
    have hstep := step_of_settles (edge_of_busy hp hr)
    cases hv : s.sampled.raisesValid waited with
    | true => exact .of_step (by omega) hstep (by simp [hv]) rfl rfl rfl
    | false =>
      have hwait : (s.sampled.waitResponse rsp waited).port = .busy rsp (waited + 1) := by simp [hv]
      exact (ih hwait (by simpa using by omega) hrest).after_step hstep rfl rfl rfl

/-! ### Reads (R36) -/

theorem Device.effect_of_isRead {i : Instr} (d : Device) (h : isRead i = true) : d.effect i = d := by
  cases i with
  | init | pushb | final | expand | next => cases h
  | rdbw | rdw | rdcnt | rdstat => rfl

/-- Completing a read twice is completing it once. -/
theorem State.complete_complete_of_isRead {i : Instr} (s : State) (h : isRead i = true) :
    (s.complete i).complete i = s.complete i := by
  simp [State.complete, State.respond, Device.effect_of_isRead _ h]

/-! ### The statements of 20_memory.md -/

/-- Settles O14, by induction on the edges: the port holds at most the one response the host has not taken. -/
theorem portServesCommandsInOrder : Obligations.PortServesCommandsInOrder := by
  intro n s hs hp hrst
  obtain ⟨last, hlast⟩ := pending_append_transcript n s hs hrst
  rw [State.pending_of_idle hp] at hlast
  refine ⟨⟨last.toList, hlast.symm⟩, ?_⟩
  calc (acceptedWords n s).length = (transcript (acceptedWords n s) s).length := (transcript_length hs _).symm
    _ = (observations n s).length + last.toList.length := by simpa using congrArg List.length hlast
    _ ≤ (observations n s).length + 1 := Nat.add_le_add_left (by cases last <;> simp) _

/-- Settles O51, by induction on the words. -/
theorem everyWordIsAnswered : Obligations.EveryWordIsAnswered :=
  fun ws _ hs => ⟨transcript_words hs ws, afterWords_isSome hs ws⟩

/-- Settles O7: the edge accepts the word, and decoding decides between its command and E_ILLEGAL. -/
theorem stepRunsAcceptedCommand : Obligations.StepRunsAcceptedCommand := by
  intro s hp hr hv
  have hstep := step_of_offered hp hr hv
  refine ⟨hstep, fun i hd => hstep.trans (runWord_of_ok _ hd), fun e hd => ?_⟩
  rw [hstep, runWord_of_error _ hd, reject_eq, recordError_eIllegal]
  rfl

/-- Settles O8: the word placed is the command's own, and it decodes to the command. -/
theorem fetchedWordRuns : Obligations.FetchedWordRuns := by
  intro s i
  have hword : s.withFetchWord 32 (encode i).toNat = s.offerWord (encode i) := by
    simp [State.withFetchWord, Nat.mod_eq_of_lt (encode i).isLt]
  rw [hword, step_of_offered rfl rfl rfl]
  exact runWord_of_ok _ (decode_encode i)

/-- Settles O9: while a command is outstanding the edge looks at `rst` and `rsp_ready` only. -/
theorem portIgnoresOffersWhileOutstanding : Obligations.PortIgnoresOffersWhileOutstanding := by
  intro s v w hp
  have hedge : State.edge { s with pins := { s.input with cmdValid := v, cmdData := w } :: s.pins.tail } = s.edge := by
    cases hport : s.port with
    | idle => exact absurd hport hp
    | busy rsp n => simp [State.edge, hport, State.sampled, State.input]
    | offering rsp => simp [State.edge, hport, State.sampled, State.input]
  exact ⟨by simp [State.cmdReady, hp], by rw [step, hedge, step]⟩

/-- Settles O10, by the two values of `rsp_ready`. -/
theorem responseHeldUntilTaken : Obligations.ResponseHeldUntilTaken := by
  intro s rsp hp hr
  rw [step_of_offering hp hr, State.taken_of_offering hp hr]
  constructor <;> (intro hready; rw [hready]; exact ⟨rfl, rfl⟩)

/-- Settles O15: the response taken leaves the port idle, and the host still drives the word it held. -/
theorem heldCommandIsAcceptedUnchanged : Obligations.HeldCommandIsAcceptedUnchanged := by
  intro s rsp hp hr hready hv hhold hr' hv'
  have hstep := step_of_offering hp hr
  rw [hready] at hstep
  have hword : s.sampled.input.cmdData = s.input.cmdData := hhold hv (by simp [State.cmdReady, hp]) hv'
  have hedge := edge_of_offered (s := s.sampled.offerResponse true) rfl (by simpa using hr') (by simpa using hv')
  rw [State.offerResponse_input, hword] at hedge
  exact ⟨_, _, hstep, rfl, by simp [State.cmdReady, hr'], hedge, rfl, rfl⟩

/-- Settles O11, by induction on what is left of `LATENCY(cmd)`. -/
theorem commandAnsweredWithinLatency : Obligations.CommandAnsweredWithinLatency := by
  intro s rsp waited hp hlt hrst
  obtain ⟨m, hm⟩ : ∃ m, Config.latency s.cmd - waited = m + 1 := ⟨_, (Nat.succ_pred (by omega)).symm⟩
  rw [hm] at hrst ⊢
  exact offersWithin_of_busy hp (by omega) hrst

/-- Settles O46: an accepted read has no effect on the device, so its checks hold again and it reads the same. -/
theorem acceptedReadsChangeNothing : Obligations.AcceptedReadsChangeNothing := by
  intro i s t v hread h hok
  rcases exec_outcome h with ⟨c, hr, rfl⟩ | ⟨ha, rfl⟩
  · obtain ⟨rfl, -⟩ : c = .ok ∧ (0 : Word) = v := by simpa using hok
    exact absurd rfl hr.code_ne_ok
  · have hdev : (s.complete i).dev = s.dev := Device.effect_of_isRead s.dev hread
    refine ⟨hdev, ?_⟩
    rw [exec_of_accepts (hdev.symm ▸ ha), State.complete_complete_of_isRead s hread]

/-- Settles O57, by the three states of the port. -/
theorem responseLinesCarryTheResponse : Obligations.ResponseLinesCarryTheResponse := by
  refine ⟨fun s rsp hp => ?_, fun s hnone => ?_, by decide⟩
  · simp [State.rspValid, State.rspCode, State.rspData, State.rspOut_of_offering hp]
  · have hout : s.rspOut = none := by
      cases hp : s.port with
      | idle => exact State.rspOut_of_idle hp
      | busy rsp n => exact State.rspOut_of_busy hp
      | offering rsp => exact absurd hp (hnone rsp)
    simp [State.rspValid, hout]

end Sys2Proof.Machine

namespace Sys2Proof.Machine

/-! ### The nine formats, and the word of each command (R51, R54, R55, R59, R62) -/

/-- The opcode of each row of the opcode map, with the number of bits of its argument field (R54, R55). -/
def commandFormats : List (Nat × Nat) :=
  [(1, 0), (2, 8), (3, 0), (4, 0), (5, 0), (6, 4), (7, 6), (8, 2), (9, 0)]

theorem commandFormats_width_le : ∀ p ∈ commandFormats, p.2 ≤ 24 := by decide

/-- A row of the opcode map fixes the opcode and clears the argument above the row's field (R54, R55). -/
theorem opcodeMap_format : ∀ r ∈ opcodeMap, ∃ p ∈ commandFormats, p.1 < 256 ∧
    r.mask = BitVec.allOnes 32 <<< p.2 ∧ r.matchBits = commandWord (BitVec.ofNat 8 p.1) 0 := by decide

/-- An opcode is assigned to a format, or it is 0x00 or in 0x0A to 0xFF (R60). -/
theorem opField_assigned_or (w : Word) :
    (∃ p ∈ commandFormats, (opField w).toNat = p.1) ∨ opField w = 0 ∨ 0x0A ≤ opField w := by
  simp only [commandFormats, List.mem_cons, List.not_mem_nil, or_false, exists_eq_or_imp, exists_eq_left]
  bv_omega

theorem CounterHalf.code_ofField (x : BitVec 2) : (CounterHalf.ofField x).code = x := by
  revert x; decide

/-- The word of a format's opcode decodes by the reserved bits of its format alone, and the command is the one whose
word has the opcode and the argument field of `w`. -/
theorem decode_of_format {w : Word} {p : Nat × Nat} (hp : p ∈ commandFormats) (hop : (opField w).toNat = p.1) :
    ∃ i, decode w = withArgument p.2 w i ∧
      encode i = commandWord (opField w) ((w.extractLsb' 0 p.2).setWidth 32) := by
  replace hop : opField w = BitVec.ofNat 8 p.1 := by rw [← hop, BitVec.ofNat_toNat, BitVec.setWidth_eq]
  simp only [commandFormats, List.mem_cons, List.not_mem_nil, or_false] at hp
  rcases hp with rfl | rfl | rfl | rfl | rfl | rfl | rfl | rfl | rfl
  · exact ⟨.init, by simp [decode, hop], by simp [encode, hop]⟩
  · exact ⟨.pushb (w.extractLsb' 0 8), by simp [decode, hop], by simp [encode, hop]⟩
  · exact ⟨.final, by simp [decode, hop], by simp [encode, hop]⟩
  · exact ⟨.expand, by simp [decode, hop], by simp [encode, hop]⟩
  · exact ⟨.next, by simp [decode, hop], by simp [encode, hop]⟩
  · refine ⟨.rdbw (w.extractLsb' 0 4).toFin, by simp [decode, hop], ?_⟩
    exact hop ▸ congrArg (commandWord 0x06) (BitVec.ofNat_toNat 32 (w.extractLsb' 0 4))
  · refine ⟨.rdw (w.extractLsb' 0 6).toFin, by simp [decode, hop], ?_⟩
    exact hop ▸ congrArg (commandWord 0x07) (BitVec.ofNat_toNat 32 (w.extractLsb' 0 6))
  · exact ⟨.rdcnt (.ofField (w.extractLsb' 0 2)), by simp [decode, hop],
      by simp [encode, hop, CounterHalf.code_ofField]⟩
  · exact ⟨.rdstat, by simp [decode, hop], by simp [encode, hop]⟩

theorem decode_of_unassigned {w : Word} (h : opField w = 0 ∨ 0x0A ≤ opField w) :
    decode w = .error (.unassignedOpcode (opField w)) := by
  have hne (op : Byte) (hop : op ≠ 0 ∧ op < 0x0A) : opField w ≠ op := by bv_omega
  simp [decode, hne]

/-- A reserved argument bit makes a word of a format illegal (R59). -/
theorem withArgument_of_reserved {n : Nat} {w : Word} (h : argField w >>> n ≠ 0) (i : Instr) :
    withArgument n w i = .error (.reservedArgument (opField w)) :=
  if_neg (by simpa [argFits] using h)

/-- A word with no reserved bit set is its opcode and its argument field. -/
theorem eq_commandWord_of_argFits {n : Nat} {w : Word} (hn : n ≤ 24) (h : argFits n w = true) :
    commandWord (opField w) ((w.extractLsb' 0 n).setWidth 32) = w := by
  have hfits : (argField w).toNat < 2 ^ n := by
    have h0 : argField w >>> n = 0 := by simpa [argFits] using h
    have := congrArg BitVec.toNat h0
    rw [BitVec.toNat_ushiftRight, Nat.shiftRight_eq_div_pow] at this
    exact (Nat.div_eq_zero_iff.1 this).resolve_left (Nat.two_pow_pos n).ne'
  obtain ⟨c, hc⟩ := pow_dvd_pow 2 hn
  apply BitVec.eq_of_toNat_eq
  rw [commandWord_toNat hn, BitVec.extractLsb'_toNat, Nat.shiftRight_zero, toNat_eq_fields w, hc, mul_assoc,
    Nat.mul_add_mod, Nat.mod_eq_of_lt hfits]

/-- Each legal word is the word of its command (R55, R62). -/
theorem encode_of_decode {w : Word} {i : Instr} (h : decode w = .ok i) : encode i = w := by
  rcases opField_assigned_or w with ⟨p, hp, hop⟩ | hun
  · obtain ⟨j, hdec, henc⟩ := decode_of_format hp hop
    obtain ⟨hfits, rfl⟩ := withArgument_eq_ok.1 (hdec.symm.trans h)
    rw [henc, eq_commandWord_of_argFits (commandFormats_width_le p hp) hfits]
  · rw [decode_of_unassigned hun] at h
    cases h

/-! ### The opcode map (R55) -/

/-- A row's mask keeps the bits above its field, and the field is the rest. -/
theorem and_mask_or_low {v : Nat} (w : BitVec v) (n : Nat) :
    (w &&& BitVec.allOnes v <<< n) ||| (w.extractLsb' 0 n).setWidth v = w := by
  ext j hj
  by_cases hjn : j < n <;> simp [hj, hjn]

/-- A word that matches a row is the word of a command. -/
theorem exists_encode_of_matches {w : Word} {r : OpcodeRow} (hr : r ∈ opcodeMap)
    (h : w &&& r.mask = r.matchBits) : ∃ i, encode i = w := by
  obtain ⟨p, hp, hlt, hmask, hmatch⟩ := opcodeMap_format r hr
  have hw : commandWord (BitVec.ofNat 8 p.1) ((w.extractLsb' 0 p.2).setWidth 32) = w := by
    have hlow := and_mask_or_low w p.2
    rw [← hmask, h, hmatch] at hlow
    simpa [commandWord] using hlow
  have hopf : opField w = BitVec.ofNat 8 p.1 := by
    rw [← hw, opField_commandWord (commandFormats_width_le p hp)]
  have hop : (opField w).toNat = p.1 := by rw [hopf, BitVec.toNat_ofNat, Nat.mod_eq_of_lt hlt]
  obtain ⟨i, -, henc⟩ := decode_of_format hp hop
  exact ⟨i, by rw [henc, hopf, hw]⟩

/-- The word of a command matches its own row of the map and no other. -/
theorem encode_matches_iff {r : OpcodeRow} (hr : r ∈ opcodeMap) (i : Instr) :
    encode i &&& r.mask = r.matchBits ↔ r.mnemonic = i.mnemonic := by
  have hown : Laws.EncodedInOwnRow.Statement i := by
    cases i with
    | init => exact Laws.EncodedInOwnRow.init
    | pushb b => exact Laws.EncodedInOwnRow.pushb b
    | final => exact Laws.EncodedInOwnRow.final
    | expand => exact Laws.EncodedInOwnRow.expand
    | next => exact Laws.EncodedInOwnRow.next
    | rdbw j => exact Laws.EncodedInOwnRow.rdbw j
    | rdw t => exact Laws.EncodedInOwnRow.rdw t
    | rdcnt sel => exact Laws.EncodedInOwnRow.rdcnt sel
    | rdstat => exact Laws.EncodedInOwnRow.rdstat
  exact beq_iff_eq.symm.trans (hown r hr)

/-- A mnemonic names one row. -/
theorem opcodeMap_mnemonic_functional :
    ∀ r ∈ opcodeMap, ∀ q ∈ opcodeMap, r.mnemonic = q.mnemonic → r = q := by decide

/-- Every command has a row. -/
theorem exists_row (i : Instr) : ∃ r ∈ opcodeMap, r.mnemonic = i.mnemonic := by
  cases i with
  | init | pushb | final | expand | next | rdbw | rdw | rdcnt | rdstat => simp [opcodeMap, Instr.mnemonic]

/-- R55: the words of a row are those of its command. -/
theorem matches_iff_decode {w : Word} {r : OpcodeRow} (hr : r ∈ opcodeMap) :
    w &&& r.mask = r.matchBits ↔ ∃ i, decode w = .ok i ∧ i.mnemonic = r.mnemonic := by
  constructor
  · intro h
    obtain ⟨i, rfl⟩ := exists_encode_of_matches hr h
    exact ⟨i, decode_encode i, ((encode_matches_iff hr i).1 h).symm⟩
  · rintro ⟨i, hdec, hmn⟩
    rw [← encode_of_decode hdec]
    exact (encode_matches_iff hr i).2 hmn.symm

/-! ### The words the assembler writes (R63) -/

theorem commandWord_eq_ofNat (op : Byte) (n : Nat) :
    commandWord op (BitVec.ofNat 32 n) = BitVec.ofNat 32 (op.toNat <<< 24 ||| n) := by
  apply BitVec.eq_of_toNat_eq
  have hop := op.isLt
  rw [commandWord, BitVec.toNat_or, BitVec.toNat_shiftLeft, BitVec.toNat_setWidth, BitVec.toNat_ofNat,
    BitVec.toNat_ofNat, Nat.or_mod_two_pow, Nat.mod_eq_of_lt (a := op.toNat) (by omega)]

theorem encode_pushb (b : Byte) : encode (.pushb b) = BitVec.ofNat 32 (0x02 <<< 24 ||| b.toNat) := by
  rw [encode, ← BitVec.ofNat_toNat, commandWord_eq_ofNat]
  rfl

theorem encode_rdbw (i : Fin 16) : encode (.rdbw i) = BitVec.ofNat 32 (0x06 <<< 24 ||| i.val) :=
  commandWord_eq_ofNat 0x06 i.val

theorem encode_rdw (t : Fin 64) : encode (.rdw t) = BitVec.ofNat 32 (0x07 <<< 24 ||| t.val) :=
  commandWord_eq_ofNat 0x07 t.val

theorem encode_rdcnt (sel : CounterHalf) :
    encode (.rdcnt sel) = BitVec.ofNat 32 (0x08 <<< 24 ||| sel.code.toNat) := by
  rw [encode, ← BitVec.ofNat_toNat, commandWord_eq_ofNat]
  rfl

/-- A line with an operand in range is one word, and an operand out of range is an error (R63). -/
theorem AsmLine.assemble_operand {a : AsmLine} {n bound : Nat} {i : Instr} {w : Word}
    (hwf : a.wellFormed = decide (n < bound)) (hcmd : a.commands = [i]) (hw : n < bound → encode i = w) :
    a.assemble = if n < bound then some [w] else none := by
  by_cases hn : n < bound <;> simp [AsmLine.assemble, hwf, hcmd, hn, hw]

/-! ### The halves of the counters (R58, R88) -/

theorem halves_toNat (v : DWord) :
    (v.extractLsb' 32 32).toNat * 2 ^ 32 + (v.extractLsb' 0 32).toNat = v.toNat := by
  simp only [BitVec.extractLsb'_toNat, Nat.shiftRight_eq_div_pow]
  omega

/-- RDCNT answers its half in every phase but HALTED (R88). -/
theorem exec_rdcnt_of_err {s : State} (h : s.dev.err = 0) (sel : CounterHalf) :
    exec (.rdcnt sel) s = .next { s with port := .busy ⟨.ok, s.dev.counterHalf sel⟩ 0 } :=
  exec_of_accepts ⟨.inl h, rfl, nofun, nofun⟩

/-- A halted device rejects every other command than INIT and RDSTAT, and nothing changes (R94, R97). -/
theorem exec_of_halted {i : Instr} {s : State} (h : s.dev.err ≠ 0) (hi : runsHalted i = false) :
    exec i s = .next { s with port := .busy ⟨.eHalted, 0⟩ 0 } := by
  rw [exec_of_rejects (.halted h hi), State.raise, recordError_halted]
  rfl

/-! ### The statements of 30_encoding.md -/

/-- Settles O1: the opcode and the operand are read back from the word, command by command. -/
theorem decodeEncodeRoundTrip : Obligations.DecodeEncodeRoundTrip := decode_encode

/-- Settles O2: a legal word has no reserved bit set, so it is its opcode and its argument field. -/
theorem encodeDecodeRoundTrip : Obligations.EncodeDecodeRoundTrip := fun _ _ => encode_of_decode

/-- Settles O3: a word that matches a row is the word of a command, and a command's word matches its own row only. -/
theorem decodeFollowsOpcodeMap : Obligations.DecodeFollowsOpcodeMap := by
  refine fun w => ⟨fun r hr => matches_iff_decode hr, fun r hr q hq hmr hmq => ?_⟩
  obtain ⟨i, rfl⟩ := exists_encode_of_matches hr hmr
  exact opcodeMap_mnemonic_functional r hr q hq
    (((encode_matches_iff hr i).1 hmr).trans ((encode_matches_iff hq i).1 hmq).symm)

/-- Settles O4: the decoder's two errors, the words of no row, and the rejection with E_ILLEGAL. -/
theorem illegalWordsAreRejected : Obligations.IllegalWordsAreRejected := by
  refine ⟨fun w => decode_of_unassigned, fun w p hp hop hres => ?_, fun w => ⟨?_, fun hno => ?_⟩,
    fun w e s hdec => ?_, decode_of_unassigned (.inl rfl)⟩
  · obtain ⟨i, hdec, -⟩ := decode_of_format hp hop
    rw [hdec, withArgument_of_reserved hres]
  · rintro ⟨e, hdec⟩ r hr hmatch
    obtain ⟨i, hok, -⟩ := (matches_iff_decode hr).1 hmatch
    cases hdec.symm.trans hok
  · cases hdec : decode w with
    | error e => exact ⟨e, rfl⟩
    | ok i =>
      obtain ⟨r, hr, hmn⟩ := exists_row i
      exact absurd ((matches_iff_decode hr).2 ⟨i, hdec, hmn.symm⟩) (hno r hr)
  · rw [runWord_of_error s hdec, reject_eq, recordError_eIllegal]

/-- Settles O6, line by line: each operand in range is the operand of the command the line stands for. -/
theorem assemblerNeverTruncates : Obligations.AssemblerNeverTruncates := by
  refine ⟨by decide, fun n => ?_, fun n => ?_, fun n => ?_, fun n => ?_, fun text => ?_, ?_⟩
  · refine AsmLine.assemble_operand rfl rfl fun hn => ?_
    rw [encode_pushb, BitVec.toNat_ofNat, Nat.mod_eq_of_lt hn]
  · refine AsmLine.assemble_operand rfl rfl fun hn => ?_
    rw [encode_rdbw, Fin.val_ofNat, Nat.mod_eq_of_lt hn]
  · refine AsmLine.assemble_operand rfl rfl fun hn => ?_
    rw [encode_rdw, Fin.val_ofNat, Nat.mod_eq_of_lt hn]
  · refine AsmLine.assemble_operand rfl rfl fun hn => ?_
    rw [encode_rdcnt, CounterHalf.ofNumber, CounterHalf.code_ofField, BitVec.toNat_ofNat, Nat.mod_eq_of_lt hn]
  · simp [AsmLine.assemble, AsmLine.wellFormed, AsmLine.commands, encode_pushb]
  · simp [AsmLine.assemble, AsmLine.wellFormed, AsmLine.commands, encode_rdw, ← List.map_coe_finRange_eq_range]

/-- Settles O49: a rejection carries 0, and an accepted command what it reads, which is 0 for all but the four reads. -/
theorem responseDataWord : Obligations.ResponseDataWord := by
  intro w s t rsp hrun hanswer
  rcases runWord_outcome hrun with ⟨c, hr, rfl⟩ | ⟨i, hdec, -, rfl⟩
  · cases hanswer
    rw [if_neg hr.code_ne_ok]
  · cases hanswer
    rw [if_pos rfl, hdec]
    cases i with
    | init | pushb | final | expand | next | rdbw | rdw | rdstat => rfl
    | rdcnt sel =>
      cases sel with
      | bitLenLow | blkIdxLow => rfl
      | bitLenHigh | blkIdxHigh => exact congrArg (BitVec.ofNat 32) (Nat.shiftRight_eq_div_pow _ _)

/-- Settles O5: each word is the word of the command it is to decode to. -/
theorem specWordsDecode : Obligations.SpecWordsDecode :=
  ⟨decode_encode .init, decode_encode (.pushb 0x61), decode_encode .final, decode_encode .expand,
    decode_encode .next, decode_encode (.rdbw 15), decode_encode (.rdw 63), decode_encode (.rdcnt .blkIdxLow),
    decode_encode .rdstat⟩

/-- Settles O23: the two halves of a counter are its low and its high 32 bits. -/
theorem rdcntReadsCounterHalf : Obligations.RdcntReadsCounterHalf := by
  intro s
  refine ⟨fun sel herr => exec_of_halted herr rfl, fun herr => ?_, decode_encode (.rdcnt .bitLenLow),
    decode_encode (.rdcnt .bitLenHigh), decode_encode (.rdcnt .blkIdxLow), decode_encode (.rdcnt .blkIdxHigh)⟩
  have hread := exec_rdcnt_of_err herr
  exact ⟨_, _, _, _, hread _, hread _, hread _, hread _, halves_toNat s.dev.bitLen, halves_toNat s.dev.blkIdx⟩

end Sys2Proof.Machine

namespace Sys2Proof.Machine

/-! ### The padded message, byte by byte (R65) -/

/-- `k` of R65 brings the marker and the zeros to 8 bytes before the end of the last block. -/
theorem length_add_padZeros (M : List Byte) : M.length + 1 + padZeros M + 8 = 64 * blockCount M := by
  simp only [padZeros, blockCount]
  omega

theorem padZeros_lt (M : List Byte) : padZeros M < 64 := by
  simp only [padZeros]
  omega

@[simp] theorem be64Bytes_length (v : DWord) : (be64Bytes v).length = 8 := rfl

theorem pad_length (M : List Byte) : (pad M).length = 64 * blockCount M := by
  have hz := length_add_padZeros M
  simp only [pad, List.length_append, List.length_singleton, List.length_replicate, be64Bytes_length]
  omega

/-- The first bytes are the message. -/
theorem pad_getElem?_message {M : List Byte} {k : Nat} (hk : k < M.length) : (pad M)[k]? = M[k]? := by
  simp only [pad, List.append_assoc]
  exact List.getElem?_append_left hk

/-- What follows the message, counted from its end. -/
theorem pad_getElem?_tail (M : List Byte) (k : Nat) :
    (pad M)[M.length + k]? =
      (Config.padMarker :: (List.replicate (padZeros M) 0 ++ be64Bytes (BitVec.ofNat 64 (8 * M.length))))[k]? := by
  rw [pad, List.append_assoc, List.append_assoc, List.getElem?_append_right (by omega), Nat.add_sub_cancel_left]
  rfl

theorem pad_getElem?_marker (M : List Byte) : (pad M)[M.length]? = some Config.padMarker :=
  pad_getElem?_tail M 0

theorem pad_getElem?_zero {M : List Byte} {k : Nat} (hk : M.length < k) (hk' : k + 8 < 64 * blockCount M) :
    (pad M)[k]? = some 0 := by
  have hz := length_add_padZeros M
  obtain ⟨j, rfl⟩ := Nat.exists_eq_add_of_lt hk
  rw [Nat.add_assoc, pad_getElem?_tail, List.getElem?_cons_succ,
    List.getElem?_append_left (by simp; omega), List.getElem?_replicate, if_pos (by omega)]

theorem pad_getElem?_lengthField (M : List Byte) {k : Nat} (hk : 64 * blockCount M ≤ k + 8)
    (hk' : k < 64 * blockCount M) :
    (pad M)[k]? = some (be64Byte (BitVec.ofNat 64 (8 * M.length)) (k + 8 - 64 * blockCount M)) := by
  have hz := length_add_padZeros M
  obtain ⟨j, rfl⟩ : ∃ j, k = M.length + (padZeros M + j + 1) := ⟨k - M.length - padZeros M - 1, by omega⟩
  have hj : M.length + (padZeros M + j + 1) + 8 - 64 * blockCount M = j := by omega
  rw [hj, pad_getElem?_tail, List.getElem?_cons_succ, List.getElem?_append_right (by simp),
    List.length_replicate, Nat.add_sub_cancel_left, be64Bytes, List.getElem?_map,
    List.getElem?_range (by omega), Option.map_some]

/-- The length field ends the padded message. -/
theorem pad_drop_lengthField (M : List Byte) :
    (pad M).drop ((pad M).length - 8) = be64Bytes (BitVec.ofNat 64 (8 * M.length)) := by
  rw [pad, List.length_append, be64Bytes_length, Nat.add_sub_cancel]
  exact List.drop_left

/-- `BE64bytes` read back, most significant byte first, is the number (R10). -/
theorem be64Bytes_foldl (v : DWord) : (be64Bytes v).foldl (fun n b => n * 256 + b.toNat) 0 = v.toNat := by
  simp [be64Bytes, List.range_succ, be64Byte, Nat.shiftRight_eq_div_pow]
  omega

/-- Byte `k` of a block's length field is the byte of the number that is `63 - k` bytes above the lowest (R68, R69). -/
theorem be64Byte_eq_shift (v : DWord) {k : Nat} (hk : 56 ≤ k) (hk' : k < 64) :
    be64Byte v (k - 56) = (v >>> (8 * (63 - k))).setWidth 8 := by
  have hshift : 56 - 8 * (k - 56) = 8 * (63 - k) := by omega
  rw [be64Byte, hshift]
  apply BitVec.eq_of_toNat_eq
  simp

/-- The bytes of a block of the padded message (R72). -/
theorem paddedBlock_getElem? (M : List Byte) (j : Nat) {k : Nat} (hk : k < 64) :
    (paddedBlock M j)[k]? = (pad M)[64 * j + k]? := by
  rw [paddedBlock, List.getElem?_take_of_lt hk, List.getElem?_drop]

theorem paddedBlock_length {M : List Byte} {j : Nat} (hj : j < blockCount M) : (paddedBlock M j).length = 64 := by
  simp [paddedBlock, pad_length]
  omega

/-- Sixty-four bytes are a block of the padded message when they agree with it byte by byte. -/
theorem toList_eq_paddedBlock {B : Vector Byte 64} {M : List Byte} {j : Nat} (hj : j < blockCount M)
    (h : ∀ (k : Nat) (hk : k < 64), (pad M)[64 * j + k]? = some B[k]) : B.toList = paddedBlock M j := by
  apply List.ext_getElem?
  intro k
  by_cases hk : k < 64
  · rw [paddedBlock_getElem? M j hk, h k hk]
    simp [hk]
  · rw [List.getElem?_eq_none (by simpa using hk),
      List.getElem?_eq_none (by simpa [paddedBlock_length hj] using hk)]

/-- A block the message fills is the message's own bytes, whatever follows them (R72). -/
theorem paddedBlock_of_message {M P : List Byte} {j : Nat} (hj : M.length = 64 * (j + 1)) :
    paddedBlock (M ++ P) j = M.drop (64 * j) := by
  simp only [paddedBlock, pad, List.append_assoc]
  rw [List.drop_append_of_le_length (by omega), List.take_append_of_le_length (by simp; omega),
    List.take_of_length_le (by simp; omega)]

/-! ### The blocks the device writes are those of the padded message (R68, R69) -/

/-- FINAL's block is the one that holds the end of the message. -/
theorem finalBlock_eq_paddedBlock {buf : Vector Byte 64} {M : List Byte} {len : DWord} {r j : Nat} (hr : r < 64)
    (hM : M.length = 64 * j + r) (hlen : len = BitVec.ofNat 64 (8 * M.length))
    (hbuf : buf.toList.take r = M.drop (64 * j)) : (finalBlock buf r len).toList = paddedBlock M j := by
  apply toList_eq_paddedBlock (by simp only [blockCount]; omega)
  intro k hk
  rw [finalBlock_getElem]
  split_ifs with hlt heq hfield
  · have hget := congrArg (·[k]?) hbuf
    rw [pad_getElem?_message (by omega)]
    simpa [List.getElem?_take, hlt, hk] using hget.symm
  · rw [heq, ← hM, pad_getElem?_marker]
  · have hcount : blockCount M = j + 1 := by simp only [blockCount]; omega
    have hoff : 64 * j + k + 8 - 64 * (j + 1) = k - 56 := by omega
    rw [pad_getElem?_lengthField M (by omega) (by omega), hlen, hcount, hoff]
  · exact pad_getElem?_zero (by omega) (by simp only [blockCount]; omega)

/-- The length-only block follows a message whose last block has no room for the length. -/
theorem lengthBlock_eq_paddedBlock {M : List Byte} {len : DWord} {j : Nat} (hM : 64 * j + 56 ≤ M.length)
    (hM' : M.length < 64 * (j + 1)) (hlen : len = BitVec.ofNat 64 (8 * M.length)) :
    (lengthBlock len).toList = paddedBlock M (j + 1) := by
  have hcount : blockCount M = j + 2 := by simp only [blockCount]; omega
  apply toList_eq_paddedBlock (by omega)
  intro k hk
  rw [lengthBlock_getElem]
  split_ifs with hfield
  · have hoff : 64 * (j + 1) + k + 8 - 64 * (j + 2) = k - 56 := by omega
    rw [pad_getElem?_lengthField M (by omega) (by omega), hlen, hcount, hoff]
  · exact pad_getElem?_zero (by omega) (by omega)

/-! ### The device holds its message (R64, R66) -/

theorem Device.Holds.messageBytes_eq {d : Device} {M : List Byte} (h : d.Holds M) : d.messageBytes = M.length := by
  rw [Device.messageBytes, h.length_eq]
  omega

/-- `bitLen` is the number the length field holds (R65). -/
theorem Device.Holds.bitLen_eq {d : Device} {M : List Byte} (h : d.Holds M) :
    d.bitLen = BitVec.ofNat 64 (8 * M.length) := by
  rw [← h.length_eq, BitVec.ofNat_toNat, BitVec.setWidth_eq]

/-- While the message is open its length is that of the whole blocks and of the bytes in `buf`. -/
theorem Device.Holds.length_of_open {d : Device} {M : List Byte} (h : d.Holds M) (hd : d.Inv) (hf : d.fin = false) :
    M.length = 64 * d.blkIdx.toNat + d.fill.toNat := by
  have hcount := hd.open_count hf
  have hlen := h.length_eq
  omega

theorem Device.Inv.blkIdx_succ {d : Device} (h : d.Inv) : (d.blkIdx + 1).toNat = d.blkIdx.toNat + 1 := by
  have hle := h.blkIdx_le
  bv_omega

/-- R66: a device with no byte of an open message holds the empty one. -/
theorem Device.Inv.holds_nil {d : Device} (h : d.Inv) (hf : d.fin = false) (hlen : d.bitLen = 0) : d.Holds [] := by
  obtain ⟨-, -, hd⟩ := h.flags_of_open hf
  have hcount := h.open_count hf
  rw [hlen] at hcount
  have hfill : d.fill.toNat = 0 := by simp at hcount; omega
  constructor <;> simp [hf, hd, hlen, hfill]

theorem Device.Holds.recordError {d : Device} {M : List Byte} (h : d.Holds M) (c : RspCode) :
    (d.recordError c).Holds M := by
  unfold Device.recordError
  split
  · exact { h with }
  · exact h

/-- PUSHB appends its byte (R64, R67). -/
theorem Device.Holds.pushByte {d : Device} {M : List Byte} (h : d.Holds M) (hd : d.Inv) (b : Byte)
    (hf : d.fin = false) (hr : d.rdy = false) (hlen : d.bitLen ≠ Config.maxBitLen) :
    (d.pushByte b).Holds (M ++ [b]) := by
  obtain ⟨-, -, hdone⟩ := hd.flags_of_open hf
  have hfill := hd.fill_lt_of_not_rdy hr
  have hroom := hd.bitLen_room hlen
  have hM := h.length_of_open hd hf
  have hM' := h.length_eq
  have hfill' : (d.fill + 1).toNat = d.fill.toNat + 1 := by bv_omega
  have hlen' : (d.bitLen + 8).toNat = d.bitLen.toNat + 8 := by bv_omega
  constructor
  case length_eq => rw [pushByte_bitLen, hlen', List.length_append, List.length_singleton]; omega
  case open_bytes =>
    intro _
    rw [pushByte_buf, pushByte_fill, pushByte_blkIdx, hfill', take_succ_setIfInBounds _ b hfill, h.open_bytes hf,
      List.drop_append_of_le_length (by omega)]
  all_goals simp [hf, hdone]

/-- FINAL presents the block that holds the end of the message (R66, R68). -/
theorem Device.Holds.closeMessage {d : Device} {M : List Byte} (h : d.Holds M) (hd : d.Inv)
    (hf : d.fin = false) (hr : d.rdy = false) : d.closeMessage.Holds M := by
  obtain ⟨-, -, hdone⟩ := hd.flags_of_open hf
  have hfill := hd.fill_lt_of_not_rdy hr
  have hM := h.length_of_open hd hf
  constructor
  case length_eq => exact h.length_eq
  case open_bytes => simp
  case closed_block => exact fun _ _ => finalBlock_eq_paddedBlock hfill hM h.bitLen_eq (h.open_bytes hf)
  case closed_last =>
    intro _ _
    simp only [closeMessage_last, closeMessage_blkIdx, decide_eq_true_eq, blockCount]
    omega
  case closed_index => simp [hdone]

theorem Device.Holds.expandBlock {d : Device} {M : List Byte} (h : d.Holds M) : d.expandBlock.Holds M := { h with }

/-- NEXT presents the length-only block, ends the message after its last block, or empties `buf` (R66, R69). -/
theorem Device.Holds.release {d : Device} {M : List Byte} (h : d.Holds M) (hd : d.Inv) (hr : d.rdy = true) :
    d.release.Holds M := by
  have hdone := hd.done_of_rdy hr
  have hbytes := h.messageBytes_eq
  have hidx := hd.blkIdx_succ
  cases hp : d.lpend with
  | true =>
    obtain ⟨-, hf, -⟩ := hd.lpend_rdy hp
    obtain ⟨hroom, hroom'⟩ := hd.index_lpend hp
    rw [hbytes] at hroom hroom'
    rw [d.release_of_lpend hp]
    constructor
    case length_eq => exact h.length_eq
    case closed_block =>
      intro _ _
      rw [hidx]
      exact lengthBlock_eq_paddedBlock hroom hroom' h.bitLen_eq
    case closed_last => intro _ _; simp only [hidx, blockCount, true_iff]; omega
    all_goals simp [hf, hdone]
  | false =>
    cases hl : d.last with
    | true =>
      obtain ⟨-, hf⟩ := hd.last_rdy hl
      rw [d.release_of_last hp hl]
      constructor
      case length_eq => exact h.length_eq
      case closed_index => intro _; rw [hidx, (h.closed_last hf hr).1 hl]
      all_goals simp [hf]
    | false =>
      have hf : d.fin = false := by
        by_contra hf
        simpa [hl, hp] using hd.presenting_tail (by simpa using hf) hr
      have hM := h.length_of_open hd hf
      rw [hd.fill_eq_of_rdy hr] at hM
      rw [d.release_of_open hp hl]
      constructor
      case length_eq => exact h.length_eq
      case open_bytes => intro _; simp only [hidx]; simp at hM ⊢; omega
      all_goals simp [hf, hdone]

/-- Every accepted command keeps the device holding its message (R64, R66). -/
theorem Device.Holds.effect {d : Device} {M : List Byte} {i : Instr} (h : d.Holds M) (hd : d.Inv) (ha : Accepts i d) :
    (d.effect i).Holds (messageAfter i .ok M) := by
  have hallow := ha.allowed
  cases i with
  | init => exact d.clearMessage_inv.holds_nil rfl rfl
  | pushb b =>
    obtain ⟨hf, hr⟩ : d.fin = false ∧ d.rdy = false := by simpa [Device.allows] using hallow
    exact h.pushByte hd b hf hr (ha.push_room b rfl).1
  | final =>
    obtain ⟨hf, hr⟩ : d.fin = false ∧ d.rdy = false := by simpa [Device.allows] using hallow
    exact h.closeMessage hd hf hr
  | expand => exact h.expandBlock
  | next => exact h.release hd hallow
  | rdbw | rdw | rdcnt | rdstat => exact h

/-- A rejected command leaves the message as it was (R64). -/
theorem messageAfter_of_rejected (i : Instr) {c : RspCode} (hc : c ≠ .ok) (M : List Byte) : messageAfter i c M = M :=
  if_neg hc

/-- Settles O41: a rejection touches `err` alone, and each accepted command's effect keeps the message. -/
theorem commandsTrackTheMessage : Obligations.CommandsTrackTheMessage := by
  intro i s t M hs hM h
  rcases exec_outcome h with ⟨c, hr, rfl⟩ | ⟨ha, rfl⟩
  · refine ⟨⟨c, 0⟩, rfl, ?_⟩
    rw [messageAfter_of_rejected i hr.code_ne_ok]
    exact hM.recordError c
  · exact ⟨_, rfl, hM.effect hs ha⟩

/-! ### Sequences of accepted commands -/

theorem runAccepted_cons_of_accepts {i : Instr} {s : State} (is : List Instr) (h : Accepts i s.dev) :
    runAccepted (i :: is) s = runAccepted is (s.complete i) := by
  simp [runAccepted, exec_of_accepts h]

theorem runAccepted_cons_eq_some {i : Instr} {is : List Instr} {s t : State}
    (h : runAccepted (i :: is) s = some t) : Accepts i s.dev ∧ runAccepted is (s.complete i) = some t := by
  have ha : Accepts i s.dev := by
    unfold runAccepted at h
    split at h
    next u hu =>
      rcases exec_outcome hu with ⟨c, hr, rfl⟩ | ⟨ha, -⟩
      · simp [hr.code_ne_ok] at h
      · exact ha
    all_goals cases h
  exact ⟨ha, runAccepted_cons_of_accepts is ha ▸ h⟩

theorem presentations_cons_of_accepts {i : Instr} {s : State} (is : List Instr) (h : Accepts i s.dev) :
    presentations (i :: is) s =
      if presents i s.dev (s.complete i).dev then (s.complete i).dev.presentation :: presentations is (s.complete i)
      else presentations is (s.complete i) := by
  simp only [presentations, exec_of_accepts h]

/-- The message after an accepted command other than INIT, followed by the bytes still to be pushed. -/
theorem messageAfter_append_pushedBytes {i : Instr} (hi : i ≠ .init) (M : List Byte) (is : List Instr) :
    messageAfter i .ok M ++ pushedBytes is = M ++ pushedBytes (i :: is) := by
  cases i with
  | init => contradiction
  | pushb b => simp [messageAfter, pushedBytes]
  | final | expand | next | rdbw | rdw | rdcnt | rdstat => rfl

/-- A closed message takes no more bytes (R22, R64). -/
theorem pushedBytes_eq_nil_of_closed {is : List Instr} {s t : State} (hf : s.dev.fin = true)
    (hi : ∀ i ∈ is, i ≠ .init) (h : runAccepted is s = some t) : pushedBytes is = [] := by
  induction is generalizing s with
  | nil => rfl
  | cons i is ih =>
    obtain ⟨ha, hrest⟩ := runAccepted_cons_eq_some h
    obtain ⟨hne, his⟩ := List.forall_mem_cons.1 hi
    have hnil := ih (s := s.complete i) (ha.closed hf hne).1 his hrest
    cases i with
    | pushb b => simpa [Device.allows, hf] using ha.allowed
    | init | final | expand | next | rdbw | rdw | rdcnt | rdstat => exact hnil

/-! ### What an accepted command presents (R66) -/

/-- The blocks of the message presented up to now: those released, and the one in `buf` if it is complete. -/
def Device.shown (d : Device) : Nat := d.blkIdx.toNat + d.rdy.toNat

theorem Device.shown_of_rdy {d : Device} (h : d.rdy = true) : d.shown = d.blkIdx.toNat + 1 := by
  simp [shown, h]

theorem Device.shown_of_not_rdy {d : Device} (h : d.rdy = false) : d.shown = d.blkIdx.toNat := by
  simp [shown, h]

/-- The change from `d` to `e` presents the next block, or leaves the number of those presented. -/
def ShowsInOrder (i : Instr) (d e : Device) : Prop :=
  if presents i d e then e.rdy = true ∧ e.blkIdx.toNat = d.shown else e.shown = d.shown

theorem showsInOrder_of_unchanged {i : Instr} {d e : Device} (hidx : e.blkIdx = d.blkIdx) (hr : e.rdy = d.rdy)
    (hl : e.lpend = d.lpend) : ShowsInOrder i d e := by
  rw [ShowsInOrder, presents_of_unchanged hr hl]
  simp [Device.shown, hidx, hr]

/-- After NEXT a block is in `buf` exactly when NEXT built it (R69). -/
@[simp] theorem Device.release_rdy (d : Device) : d.release.rdy = d.lpend := by
  cases hp : d.lpend with
  | true => rw [d.release_of_lpend hp]
  | false =>
    cases hl : d.last with
    | true => rw [d.release_of_last hp hl]
    | false => rw [d.release_of_open hp hl]

/-- Every accepted command other than INIT presents the next block or none. -/
theorem Device.Inv.effect_showsInOrder {d : Device} {i : Instr} (h : d.Inv) (ha : Accepts i d) (hi : i ≠ .init) :
    ShowsInOrder i d (d.effect i) := by
  have hallow := ha.allowed
  cases i with
  | init => contradiction
  | pushb b =>
    obtain ⟨-, hr⟩ : d.fin = false ∧ d.rdy = false := by simpa [Device.allows] using hallow
    simp [ShowsInOrder, presents, Device.effect, Device.shown, hr]
  | final =>
    obtain ⟨-, hr⟩ : d.fin = false ∧ d.rdy = false := by simpa [Device.allows] using hallow
    simp [ShowsInOrder, presents, Device.effect, Device.shown, hr]
  | next =>
    have hr : d.rdy = true := hallow
    have hidx : d.release.blkIdx.toNat = d.blkIdx.toNat + 1 := by rw [release_blkIdx, h.blkIdx_succ]
    cases hp : d.lpend <;>
      simp [ShowsInOrder, presents, Device.effect, Device.shown, hr, hp, hidx, -release_blkIdx]
  | expand | rdbw | rdw | rdcnt | rdstat => exact showsInOrder_of_unchanged rfl rfl rfl

/-! ### The blocks presented are those of the padded message (R66) -/

/-- What R66 says the device shows as block `j` of the padded message. -/
def paddedPresentation (M : List Byte) (j : Nat) : Presentation :=
  ⟨j, decide (j + 1 = blockCount M), paddedBlock M j⟩

/-- What R66 says the device shows of a message, in order. -/
def paddedPresentations (M : List Byte) : List Presentation :=
  (List.range (blockCount M)).map (paddedPresentation M)

@[simp] theorem paddedPresentations_length (M : List Byte) : (paddedPresentations M).length = blockCount M := by
  simp [paddedPresentations]

theorem paddedPresentations_drop {M : List Byte} {j : Nat} (hj : j < blockCount M) :
    (paddedPresentations M).drop j = paddedPresentation M j :: (paddedPresentations M).drop (j + 1) := by
  rw [List.drop_eq_getElem_cons (by simpa using hj)]
  simp [paddedPresentations]

/-- A full block of an open message is a block of its padding and not the last, whatever bytes `P` follow it. -/
theorem Device.Holds.presentation_of_open {d : Device} {M : List Byte} (h : d.Holds M) (hd : d.Inv) (hr : d.rdy = true)
    (hf : d.fin = false) (P : List Byte) :
    d.blkIdx.toNat < blockCount (M ++ P) ∧ d.presentation = paddedPresentation (M ++ P) d.blkIdx.toNat := by
  obtain ⟨hl, -, -⟩ := hd.flags_of_open hf
  have hM := h.length_of_open hd hf
  have hbuf := h.open_bytes hf
  rw [hd.fill_eq_of_rdy hr] at hM hbuf
  have hM' : M.length = 64 * (d.blkIdx.toNat + 1) := hM
  have hcount : d.blkIdx.toNat + 1 < blockCount (M ++ P) := by
    rw [blockCount, List.length_append]
    omega
  have hblock : d.buf.toList = paddedBlock (M ++ P) d.blkIdx.toNat := by
    rw [paddedBlock_of_message hM', ← hbuf, List.take_of_length_le (by simp)]
  refine ⟨by omega, ?_⟩
  rw [presentation, paddedPresentation, hl, hblock, decide_eq_false (by omega)]

/-- A block presented after FINAL is a block of the padding (R66). -/
theorem Device.Holds.presentation_of_closed {d : Device} {M : List Byte} (h : d.Holds M) (hd : d.Inv)
    (hr : d.rdy = true) (hf : d.fin = true) :
    d.blkIdx.toNat < blockCount M ∧ d.presentation = paddedPresentation M d.blkIdx.toNat := by
  have hlast := h.closed_last hf hr
  constructor
  · rcases hd.presenting_tail hf hr with hl | hp
    · have := hlast.1 hl
      omega
    · obtain ⟨hbytes, -⟩ := hd.index_lpend hp
      rw [h.messageBytes_eq] at hbytes
      rw [blockCount]
      omega
  · have hl : d.last = decide (d.blkIdx.toNat + 1 = blockCount M) := by
      rw [Bool.eq_iff_iff, hlast, decide_eq_true_iff]
    rw [presentation, paddedPresentation, h.closed_block hf hr, hl]

/-- The rest of a run that ends with `done` presents the rest of the blocks. -/
theorem presentations_of_runAccepted {cmds : List Instr} {s t : State} {M : List Byte} (hs : s.dev.Inv)
    (hM : s.dev.Holds M) (hi : ∀ i ∈ cmds, i ≠ .init) (h : runAccepted cmds s = some t) (hdone : t.dev.done = true) :
    presentations cmds s = (paddedPresentations (M ++ pushedBytes cmds)).drop s.dev.shown := by
  induction cmds generalizing s M with
  | nil =>
    cases h
    obtain ⟨-, hr, -, -⟩ := hs.done_fin hdone
    rw [Device.shown_of_not_rdy hr, hM.closed_index hdone, List.drop_eq_nil_of_le (by simp [pushedBytes])]
    rfl
  | cons i is ih =>
    obtain ⟨ha, hrest⟩ := runAccepted_cons_eq_some h
    obtain ⟨hne, his⟩ := List.forall_mem_cons.1 hi
    have hinv := hs.effect ha
    have hholds := hM.effect hs ha
    have htail := ih hinv hholds his hrest
    have hshow := hs.effect_showsInOrder ha hne
    rw [ShowsInOrder] at hshow
    rw [presentations_cons_of_accepts is ha, ← messageAfter_append_pushedBytes hne, htail, State.complete_dev]
    split_ifs at hshow ⊢
    · obtain ⟨hr, hidx⟩ := hshow
      obtain ⟨hlt, heq⟩ : (s.dev.effect i).blkIdx.toNat < blockCount (messageAfter i .ok M ++ pushedBytes is) ∧
          (s.dev.effect i).presentation = _ := by
        cases hf : (s.dev.effect i).fin with
        | false => exact hholds.presentation_of_open hinv hr hf _
        | true =>
          rw [pushedBytes_eq_nil_of_closed (s := s.complete i) hf his hrest, List.append_nil]
          exact hholds.presentation_of_closed hinv hr hf
      rw [heq, Device.shown_of_rdy hr, ← paddedPresentations_drop hlt, hidx]
    · rw [hshow]

/-- Settles O42, by induction on the run: its first blocks are those shown so far. -/
theorem everyPaddedBlockPresentedInOrder : Obligations.EveryPaddedBlockPresentedInOrder := by
  intro cmds s t hs hf hlen hi h hdone
  have hcount := hs.open_count hf
  rw [hlen] at hcount
  have hr : s.dev.rdy = false := by
    by_contra hr
    rw [hs.fill_eq_of_rdy (by simpa using hr)] at hcount
    simp at hcount
  have hidx : s.dev.shown = 0 := by
    rw [Device.shown_of_not_rdy hr]
    simp at hcount
    omega
  rw [presentations_of_runAccepted hs (hs.holds_nil hf hlen) hi h hdone, hidx]
  rfl

/-! ### The statements of 40_padder.md: the rules of PUSHB, FINAL and NEXT (R67, R68, R69) -/

/-- With `err` = 0 a command whose precondition fails answers E_SEQ, and `err` records it (R91, R96). -/
theorem exec_of_denied {i : Instr} {s : State} (herr : s.dev.err = 0) (h : s.dev.allows i = false) :
    exec i s = .next { s with dev := { s.dev with err := 2 }, port := .busy ⟨.eSeq, 0⟩ 0 } := by
  rw [exec_of_rejects (.sequence herr h), State.raise, recordError_first s.dev .eSeq herr (by decide)]
  rfl

/-- PUSHB of an open message that is as long as the length field admits answers E_LENOVF (R67, R92). -/
theorem exec_pushb_of_longest {s : State} (b : Byte) (herr : s.dev.err = 0) (hf : s.dev.fin = false)
    (hr : s.dev.rdy = false) (hlen : s.dev.bitLen = Config.maxBitLen) :
    exec (.pushb b) s = .next { s with dev := { s.dev with err := 3 }, port := .busy ⟨.eLenOvf, 0⟩ 0 } := by
  have hallow : s.dev.allows (.pushb b) = true := by simp [Device.allows, hf, hr]
  rw [exec_of_rejects (.overflow herr hallow ⟨b, rfl⟩ hlen), State.raise,
    recordError_first s.dev .eLenOvf herr (by decide)]
  rfl

theorem setIfInBounds_of_lt (buf : Vector Byte 64) {n : Nat} (b : Byte) (h : n < 64) :
    buf.setIfInBounds n b = buf.set n b h := by
  ext k hk
  rw [Vector.getElem_setIfInBounds, Vector.getElem_set]

/-- PUSHB where `buf[fill]` exists and no block is complete yet (R67). -/
theorem Device.pushByte_of_room {d : Device} (b : Byte) (hr : d.rdy = false) (h : d.fill.toNat < 64) :
    d.pushByte b = { d with
      buf := d.buf.set d.fill.toNat b h
      fill := d.fill + 1
      bitLen := d.bitLen + 8
      rdy := decide (d.fill.toNat = 63) } := by
  have hfull : (d.fill + 1 == 64) = decide (d.fill.toNat = 63) := by
    rw [Bool.eq_iff_iff, beq_iff_eq, decide_eq_true_iff]
    bv_omega
  rw [pushByte, hr, Bool.false_or, hfull, setIfInBounds_of_lt d.buf b h]

theorem bitLen_eq_max_iff (v : DWord) : v = Config.maxBitLen ↔ v.toNat = 2 ^ 64 - 8 :=
  BitVec.toNat_eq

/-- Settles O17: the checks of R98 in order, and the byte written where `buf[fill]` exists. -/
theorem pushbAppendsByte : Obligations.PushbAppendsByte := by
  intro b s
  refine ⟨fun herr => exec_of_halted herr rfl, fun herr hclosed => exec_of_denied herr ?_,
    fun herr hf hr hlen => exec_pushb_of_longest b herr hf hr ((bitLen_eq_max_iff _).2 hlen),
    fun herr hf hr hlen hfill => ?_⟩
  · rcases hclosed with h | h <;> simp [Device.allows, h]
  · have ha : Accepts (.pushb b) s.dev :=
      ⟨.inl herr, by simp [Device.allows, hf, hr], fun _ _ => ⟨mt (bitLen_eq_max_iff _).1 hlen, hfill⟩, nofun⟩
    rw [exec_of_accepts ha, State.complete, Device.effect, Device.pushByte_of_room b hr hfill]
    rfl

theorem Device.accepts_final {d : Device} (herr : d.err = 0) (hf : d.fin = false) (hr : d.rdy = false)
    (hfill : d.fill.toNat < 64) : Accepts .final d :=
  ⟨.inl herr, by simp [Device.allows, hf, hr], nofun, fun _ => hfill⟩

theorem Device.accepts_next {d : Device} (herr : d.err = 0) (hr : d.rdy = true) : Accepts .next d :=
  ⟨.inl herr, hr, nofun, nofun⟩

/-- Settles O18: the block FINAL leaves, by the ranges of R70's table. -/
theorem finalWritesPadding : Obligations.FinalWritesPadding := by
  intro s
  refine ⟨fun herr => exec_of_halted herr rfl, fun herr hclosed => exec_of_denied herr ?_,
    fun herr hf hr hfill => ⟨finalBlock s.dev.buf s.dev.fill.toNat s.dev.bitLen, ?_, fun k hk => ?_⟩⟩
  · rcases hclosed with h | h <;> simp [Device.allows, h]
  · have hroom : (!decide (s.dev.fill.toNat ≤ 55)) = decide (56 ≤ s.dev.fill.toNat) := by
      rw [← decide_not, decide_eq_decide]
      omega
    rw [exec_of_accepts (Device.accepts_final herr hf hr hfill), State.complete, Device.effect, Device.closeMessage,
      hroom]
    rfl
  · rw [finalBlock_getElem]
    refine ⟨fun h => if_pos h, fun h => ?_, fun h h' h'' => ?_, fun h h' => ?_, fun h h' => ?_⟩
    · rw [if_neg (by omega), if_pos h]
      rfl
    · rw [if_neg (by omega), if_neg (by omega), if_neg (by omega)]
    · rw [if_neg (by omega), if_neg (by omega), if_pos (by omega), be64Byte_eq_shift _ h' hk]
    · rw [if_neg (by omega), if_neg (by omega), if_neg (by omega)]

/-- Settles O19: NEXT is allowed exactly while a block is presented, and does one of three things. -/
theorem nextReleasesBlock : Obligations.NextReleasesBlock := by
  intro s
  have accepted (herr : s.dev.err = 0) (hr : s.dev.rdy = true) :
      exec .next s = .next { s with dev := s.dev.release, port := .busy ⟨.ok, 0⟩ 0 } :=
    exec_of_accepts (Device.accepts_next herr hr)
  refine ⟨fun herr => exec_of_halted herr rfl, fun herr hr => exec_of_denied herr hr,
    fun herr hr hp => ⟨lengthBlock s.dev.bitLen, ?_, fun k hk => ?_⟩, fun herr hr hp hl => ?_, fun herr hr hp hl => ?_⟩
  · rw [accepted herr hr, s.dev.release_of_lpend hp]
  · rw [lengthBlock_getElem]
    refine ⟨fun h => if_neg (by omega), fun h => ?_⟩
    rw [if_pos h, be64Byte_eq_shift _ h hk]
  · rw [accepted herr hr, s.dev.release_of_last hp hl]
  · rw [accepted herr hr, s.dev.release_of_open hp hl]

/-! ### The statements of 40_padder.md: no command fails or stops (R71) -/

/-- Under the invariant every word has a next state: FINAL and PUSHB find the byte they write. -/
theorem Device.Inv.runWord_next {s : State} (h : s.dev.Inv) (w : Word) : ∃ t, runWord w s = .next t := by
  obtain ⟨e, rsp, -, hw⟩ := h.answersWith w
  exact ⟨_, hw s rfl⟩

/-- Settles O35: an edge runs a word, which has a next state, or changes the port only. -/
theorem noStepStopsTheMachine : Obligations.NoStepStopsTheMachine := by
  intro s hs
  refine ⟨?_, hs.runWord_next⟩
  rcases edge_cases s with ⟨-, he⟩ | ⟨-, -, -, he⟩ | ⟨-, -, -, he⟩ | ⟨-, rsp, n, -, he⟩ | ⟨-, rsp, -, he⟩
  · exact ⟨_, step_of_settles he⟩
  · rw [step_of_accepts he]
    exact Device.Inv.runWord_next (s := s.sampled.latchCommand _) hs _
  · exact ⟨_, step_of_settles he⟩
  · exact ⟨_, step_of_settles he⟩
  · exact ⟨_, step_of_settles he⟩

/-- The run ends the message of `d`: `done` = 1, no error, the same length, and every block released. -/
def Device.EndsMessageOf (d e : Device) : Prop :=
  e.done = true ∧ e.err = 0 ∧ e.bitLen = d.bitLen ∧ e.blkIdx.toNat = (d.messageBytes + 8) / 64 + 1

/-- The NEXT after the last block ends the message (R69). -/
theorem Device.Inv.next_ends_of_last {s : State} (hs : s.dev.Inv) (herr : s.dev.err = 0) (hl : s.dev.last = true) :
    ∃ t, runAccepted [.next] s = some t ∧ s.dev.EndsMessageOf t.dev := by
  obtain ⟨hr, -⟩ := hs.last_rdy hl
  have hp : s.dev.lpend = false := by
    by_contra hp
    obtain ⟨-, -, hl'⟩ := hs.lpend_rdy (by simpa using hp)
    simp [hl] at hl'
  refine ⟨_, runAccepted_cons_of_accepts [] (accepts_next herr hr), ?_, ?_, ?_, ?_⟩
  · simp [Device.effect, s.dev.release_of_last hp hl]
  · simpa [Device.effect] using herr
  · simp [Device.effect]
  · rw [State.complete_dev, Device.effect, release_blkIdx, hs.blkIdx_succ, hs.index_last hl]

/-- After the block with no room for the length, the NEXT that builds the length-only block comes first (R69). -/
theorem Device.Inv.nexts_end_of_lpend {s : State} (hs : s.dev.Inv) (herr : s.dev.err = 0) (hp : s.dev.lpend = true) :
    ∃ t, runAccepted [.next, .next] s = some t ∧ s.dev.EndsMessageOf t.dev := by
  obtain ⟨hr, -, -⟩ := hs.lpend_rdy hp
  have ha := accepts_next herr hr
  have hl : s.dev.release.last = true := by rw [s.dev.release_of_lpend hp]
  obtain ⟨t, hrun, hdone, herr', hlen, hidx⟩ :=
    next_ends_of_last (s := s.complete .next) (hs.effect ha) (s.dev.release_err.trans herr) hl
  refine ⟨t, (runAccepted_cons_of_accepts _ ha).trans hrun, hdone, herr', hlen.trans s.dev.release_bitLen, ?_⟩
  rwa [State.complete_dev, Device.effect, messageBytes, release_bitLen] at hidx

/-- Settles O43: FINAL leaves the last block or the one before it, and NEXT does the rest. -/
theorem finalAndNextAlwaysFinish : Obligations.FinalAndNextAlwaysFinish := by
  intro s hs herr hf hr
  have ha := Device.accepts_final herr hf hr (hs.fill_lt_of_not_rdy hr)
  have hinv : (s.complete .final).dev.Inv := hs.effect ha
  rw [runAccepted_cons_of_accepts _ ha]
  split_ifs with hroom
  · exact hinv.next_ends_of_last herr (decide_eq_true hroom)
  · exact hinv.nexts_end_of_lpend herr (by simp [Device.effect, hroom])

/-! ### The statements of 40_padder.md: the padded message and its presentation (R65, R66) -/

/-- Settles O40: the message, the marker, the zeros and the length field, each at its place. -/
theorem paddedMessageShape : Obligations.PaddedMessageShape := by
  intro M hM
  have hz := length_add_padZeros M
  have hlen := pad_length M
  have hcount : blockCount M = (M.length + 8) / 64 + 1 := rfl
  refine ⟨by omega, padZeros_lt M, hlen, by omega, by omega, ?_, pad_getElem?_marker M,
    fun k hk hk' => pad_getElem?_zero hk (hlen ▸ hk'), ?_, by omega, by omega⟩
  · simp only [pad, List.append_assoc]
    exact List.take_left
  · rw [pad_drop_lengthField, be64Bytes_foldl, BitVec.toNat_ofNat, Nat.mod_eq_of_lt (by omega)]

/-- Which accepted commands present a block (R66). -/
theorem Accepts.presents_iff {i : Instr} {d : Device} (ha : Accepts i d) :
    presents i d (d.effect i) = true ↔
      (((∃ b, i = .pushb b) ∨ i = .final) ∧ d.rdy = false ∧ (d.effect i).rdy = true) ∨
        (i = .next ∧ d.lpend = true ∧ (d.effect i).lpend = false ∧ (d.effect i).rdy = true) := by
  have hallow := ha.allowed
  cases i with
  | next =>
    have hr : d.rdy = true := hallow
    simp [presents, Device.effect, hr]
  | pushb | final => simp [presents]
  | init => simp [presents, Device.effect]
  | expand | rdbw | rdw | rdcnt | rdstat => simp [presents, Device.effect]

/-- Settles O53: a rejection changes neither `rdy` nor `lpend`. -/
theorem presentationsAreThoseOfTheRule : Obligations.PresentationsAreThoseOfTheRule := by
  intro i s t h
  rcases exec_outcome h with ⟨c, hr, rfl⟩ | ⟨ha, rfl⟩
  · have hp : presents i s.dev (s.dev.recordError c) = false :=
      presents_of_unchanged (Device.recordError_rdy _ _) (Device.recordError_lpend _ _)
    simp [hp, hr.code_ne_ok]
  · rw [State.complete_answer, Option.map_some, State.complete_dev, ha.presents_iff]
    exact (and_iff_right rfl).symm

/-- While a block is presented, an accepted command other than INIT and NEXT keeps it (R66). -/
theorem Accepts.keeps_presentation {i : Instr} {d : Device} (ha : Accepts i d) (hr : d.rdy = true) (hi : i ≠ .init)
    (hn : i ≠ .next) : (d.effect i).rdy = true ∧ (d.effect i).presentation = d.presentation := by
  cases i with
  | init | next => contradiction
  | pushb | final => simpa [Device.allows, hr] using ha.allowed
  | expand | rdbw | rdw | rdcnt | rdstat => exact ⟨hr, rfl⟩

/-- Settles O54: a rejection touches `err` alone, and only INIT and NEXT touch a presented block. -/
theorem presentedBlockIsKept : Obligations.PresentedBlockIsKept := by
  intro i s t hr hi h hnext
  rcases exec_outcome h with ⟨c, -, rfl⟩ | ⟨ha, rfl⟩
  · simpa [Device.presentation] using hr
  · exact ha.keeps_presentation hr hi fun hn => hnext hn rfl

end Sys2Proof.Machine

namespace Sys2Proof.Machine

/-! ### The statements of 41_block_parser.md: the word parse and RDBW (R73, R74) -/

/-- Appended bits are the low digit of the number: the left operand counts `2 ^ n` each. -/
theorem append_toNat {m n : Nat} (x : BitVec m) (y : BitVec n) :
    (x ++ y).toNat = x.toNat * 2 ^ n + y.toNat := by
  rw [BitVec.toNat_append, ← Nat.shiftLeft_add_eq_or_of_lt y.isLt, Nat.shiftLeft_eq]

/-- The value of `BE32` (R10): the first byte is the most significant. -/
theorem be32_toNat (b0 b1 b2 b3 : Byte) :
    (be32 b0 b1 b2 b3).toNat =
      b0.toNat * 2 ^ 24 + b1.toNat * 2 ^ 16 + b2.toNat * 2 ^ 8 + b3.toNat := by
  simp only [be32, append_toNat]
  omega

/-- The value of a block word, as the sum of R73. -/
theorem blockWord_toNat (buf : Vector Byte 64) (i : Fin 16) :
    (blockWord buf i).toNat =
      buf[4 * i.val].toNat * 2 ^ 24 + buf[4 * i.val + 1].toNat * 2 ^ 16 +
        buf[4 * i.val + 2].toNat * 2 ^ 8 + buf[4 * i.val + 3].toNat :=
  be32_toNat _ _ _ _

/-- RDBW reads the presented block and leaves the device as it is, whether or not the block is expanded (R74). -/
theorem exec_rdbw_of_rdy {s : State} (herr : s.dev.err = 0) (hr : s.dev.rdy = true) (i : Fin 16) :
    exec (.rdbw i) s = .next { s with port := .busy ⟨.ok, blockWord s.dev.buf i⟩ 0 } :=
  exec_of_accepts ⟨.inl herr, hr, nofun, nofun⟩

/-- Settles O21: RDBW goes through the checks of R98, and the word it reads has the value of R73. -/
theorem rdbwReadsBlockWord : Obligations.RdbwReadsBlockWord := by
  intro i s
  exact ⟨fun herr => exec_of_halted herr rfl, fun herr hr => exec_of_denied herr hr,
    fun herr hr => ⟨_, exec_rdbw_of_rdy herr hr i, blockWord_toNat s.dev.buf i⟩⟩

end Sys2Proof.Machine

namespace Sys2Proof.Machine

/-! ### The statements of 42_schedule.md: rotations and the σ functions (R75 to R78) -/

theorem rotr32_eq_rotateRight (x : Word) {n : Nat} (h : n < 32) : rotr32 x n = x.rotateRight n := by
  rw [BitVec.rotateRight_def, Nat.mod_eq_of_lt h, rotr32]

/-- The bits of a rotation (R76): those shifted out at the bottom come in again at the top. -/
theorem rotr32_getLsbD (x : Word) {n j : Nat} (hn : n < 32) (hj : j < 32) :
    (rotr32 x n).getLsbD j = x.getLsbD ((j + n) % 32) := by
  rw [rotr32_eq_rotateRight x hn, BitVec.getLsbD_rotateRight, Nat.mod_eq_of_lt hn]
  by_cases hlow : j < 32 - n
  · rw [decide_eq_true hlow, cond_true, Nat.mod_eq_of_lt (by omega), Nat.add_comm]
  · have hwrap : (j + n) % 32 = j - (32 - n) := by omega
    rw [decide_eq_false hlow, cond_false, decide_eq_true hj, Bool.true_and, hwrap]

/-- The bits of a word shifted right: zeros come in at the top (R75). -/
theorem shiftRight_getLsbD (x : Word) (n j : Nat) :
    (x >>> n).getLsbD j = (decide (j + n < 32) && x.getLsbD (j + n)) := by
  rw [BitVec.getLsbD_ushiftRight, Nat.add_comm n j]
  by_cases h : j + n < 32
  · rw [decide_eq_true h, Bool.true_and]
  · rw [decide_eq_false h, Bool.false_and, BitVec.getLsbD_of_ge _ _ (by omega)]

/-- The bits of the form that σ0 and σ1 share: two rotations and a shift. -/
theorem rotr32_xor_shiftRight_getLsbD (x : Word) {a b j : Nat} (ha : a < 32) (hb : b < 32) (c : Nat) (hj : j < 32) :
    (rotr32 x a ^^^ rotr32 x b ^^^ (x >>> c)).getLsbD j =
      (x.getLsbD ((j + a) % 32) ^^ x.getLsbD ((j + b) % 32) ^^ (decide (j + c < 32) && x.getLsbD (j + c))) := by
  rw [BitVec.getLsbD_xor, BitVec.getLsbD_xor, rotr32_getLsbD x ha hj, rotr32_getLsbD x hb hj, shiftRight_getLsbD]

/-- Settles O25: σ0 and σ1 are two rotations and a shift, whose bits are known. -/
theorem sigmaFunctionsByBits : Obligations.SigmaFunctionsByBits :=
  ⟨fun x _ _ _ hn hj => rotr32_getLsbD x (by omega) hj,
    fun x _ hj => rotr32_xor_shiftRight_getLsbD x (by decide) (by decide) 3 hj,
    fun x _ hj => rotr32_xor_shiftRight_getLsbD x (by decide) (by decide) 10 hj, by decide, by decide⟩

/-! ### The statements of 42_schedule.md: the recurrence and the schedule (R79, R80) -/

/-- Word `i` + 16 is the one the recurrence of R79 gives. -/
def MeetsRecurrence (V : Vector Word 64) (i : Fin 48) : Prop :=
  V[i.val + 16] = sigma1 V[i.val + 14] + V[i.val + 9] + sigma0 V[i.val + 1] + V[i.val]

/-- The recurrence at `i` speaks of words up to `i` + 16 only. -/
theorem MeetsRecurrence.congr {V W : Vector Word 64} {i : Fin 48} (hW : MeetsRecurrence W i)
    (h : ∀ (t : Nat) (_ : t < 64), t ≤ i.val + 16 → V[t] = W[t]) : MeetsRecurrence V i := by
  simpa [MeetsRecurrence, h] using hW

/-- A step writes the word the recurrence gives, and reads only words before it. -/
theorem scheduleStep_meetsRecurrence (W : Vector Word 64) (i : Fin 48) : MeetsRecurrence (scheduleStep W i) i := by
  have before (t : Nat) (ht : t < 64) (hlt : t < i.val + 16) : (scheduleStep W i)[t] = W[t] :=
    scheduleStep_getElem_other W i t ht (Nat.ne_of_lt hlt)
  simp [MeetsRecurrence, before]

/-- Steps at other words leave a word alone. -/
theorem foldl_scheduleStep_getElem_other (is : List (Fin 48)) (W : Vector Word 64) {t : Nat} (ht : t < 64)
    (h : ∀ i ∈ is, t ≠ i.val + 16) : (is.foldl scheduleStep W)[t] = W[t] := by
  induction is generalizing W with
  | nil => rfl
  | cons i is ih =>
    obtain ⟨hi, his⟩ := List.forall_mem_cons.1 h
    rw [List.foldl_cons, ih _ his, scheduleStep_getElem_other W i t ht hi]

/-- Steps made in increasing order (R83) leave the recurrence true at each: later steps write later words. -/
theorem foldl_scheduleStep_meetsRecurrence {is : List (Fin 48)} (h : is.Pairwise (· < ·)) (W : Vector Word 64)
    {i : Fin 48} (hi : i ∈ is) : MeetsRecurrence (is.foldl scheduleStep W) i := by
  induction is generalizing W with
  | nil => cases hi
  | cons j is ih =>
    obtain ⟨hj, his⟩ := List.pairwise_cons.1 h
    rcases List.mem_cons.1 hi with rfl | hi
    · refine (scheduleStep_meetsRecurrence W i).congr fun t ht hle => ?_
      refine foldl_scheduleStep_getElem_other is _ ht fun k hk => ?_
      have hlt : i.val < k.val := hj k hk
      omega
    · exact ih his _ hi

/-- `expand` (R80) as the run of its steps.  It is unfolded here only: the equation that `rw [expand]` and
`simp [expand]` make of the definition exceeds the recursion depth. -/
theorem expand_eq_foldl (w : Vector Word 16) :
    expand w = (List.finRange 48).foldl scheduleStep (scheduleSeed w) := by
  unfold expand
  rfl

/-- Words 0 to 15 of a schedule are the block's words (R80). -/
theorem expand_getElem_of_lt (w : Vector Word 16) {t : Nat} (h : t < 16) : (expand w)[t] = w[t] := by
  rw [expand_eq_foldl, foldl_scheduleStep_getElem_other _ _ (by omega) fun i _ => by omega, scheduleSeed_getElem w t h]

/-- The other words of a schedule satisfy the recurrence (R79, R80). -/
theorem expand_meetsRecurrence (w : Vector Word 16) (i : Fin 48) : MeetsRecurrence (expand w) i := by
  rw [expand_eq_foldl]
  exact foldl_scheduleStep_meetsRecurrence (List.pairwise_lt_finRange 48) _ (List.mem_finRange i)

theorem expand_getElem_of_ge (w : Vector Word 16) {t : Nat} (h : 16 ≤ t) (ht : t < 64) :
    (expand w)[t] =
      sigma1 (expand w)[t - 2] + (expand w)[t - 7] + sigma0 (expand w)[t - 15] + (expand w)[t - 16] := by
  obtain ⟨i, rfl⟩ := Nat.exists_eq_add_of_le' h
  exact expand_meetsRecurrence w ⟨i, by omega⟩

/-! ### The statements of 42_schedule.md: EXPAND and RDW (R81, R82) -/

theorem Device.accepts_expand {d : Device} (herr : d.err = 0) (hr : d.rdy = true) : Accepts .expand d :=
  ⟨.inl herr, hr, nofun, nofun⟩

/-- RDW of an expanded block answers the schedule word and leaves the device as it is (R82). -/
theorem exec_rdw_of_sv {s : State} (herr : s.dev.err = 0) (hsv : s.dev.sv = true) (t : Fin 64) :
    exec (.rdw t) s = .next { s with port := .busy ⟨.ok, s.dev.W[t.val]⟩ 0 } :=
  exec_of_accepts ⟨.inl herr, hsv, nofun, nofun⟩

/-- Expanding an expanded block changes nothing: EXPAND leaves `buf` as it is (R81). -/
theorem Device.expandBlock_expandBlock (d : Device) : d.expandBlock.expandBlock = d.expandBlock := rfl

/-- While `sv` = 1 the first sixteen words of `W` are the presented block's (R17, R80). -/
theorem Device.Inv.scheduleWord_eq_blockWord {d : Device} (h : d.Inv) (hsv : d.sv = true) (i : Fin 16) :
    d.W[i.val] = blockWord d.buf i := by
  rw [h.schedule hsv, expand_getElem_of_lt _ i.isLt, blockWords_getElem]

/-- Settles O20: an accepted EXPAND stores the schedule of the presented block. -/
theorem expandComputesSchedule : Obligations.ExpandComputesSchedule := by
  intro s
  refine ⟨fun herr => exec_of_halted herr rfl, fun herr hr => exec_of_denied herr hr,
    fun herr hr => ⟨expand (blockWords s.dev.buf), exec_of_accepts (Device.accepts_expand herr hr),
      fun t ht => ?_, fun t hle hlt => expand_getElem_of_ge _ hle hlt⟩⟩
  rw [expand_getElem_of_lt _ ht, blockWords_getElem]

/-- Settles O27: an expanded block is presented, and its first sixteen schedule words are the block's own. -/
theorem rdwAgreesWithRdbw : Obligations.RdwAgreesWithRdbw := by
  intro i s hs herr hsv
  refine ⟨_, exec_rdw_of_sv herr hsv _, ?_⟩
  rw [exec_rdbw_of_rdy herr (hs.sv_rdy hsv), hs.scheduleWord_eq_blockWord hsv i]

/-- Settles O22: RDW goes through the checks of R98, and reads `W`. -/
theorem rdwReadsScheduleWord : Obligations.RdwReadsScheduleWord := by
  intro t s
  exact ⟨fun herr => exec_of_halted herr rfl, fun herr hsv => exec_of_denied herr hsv,
    fun herr hsv => exec_rdw_of_sv herr hsv t⟩

/-- Settles O26: EXPAND leaves the block presented, so it is accepted again and has the same effect. -/
theorem expandIsIdempotent : Obligations.ExpandIsIdempotent := by
  intro s herr hr
  exact ⟨s.complete .expand, (s.complete .expand).complete .expand,
    exec_of_accepts (Device.accepts_expand herr hr),
    exec_of_accepts (Device.accepts_expand (d := s.dev.expandBlock) herr hr), s.dev.expandBlock_expandBlock⟩

end Sys2Proof.Machine

namespace Sys2Proof.Machine

/-! ### INIT: no precondition, no exception, and no second effect (R85) -/

/-- A command that runs in the halted state has no precondition and no exception (R85, R86). -/
theorem accepts_of_runsHalted {i : Instr} (h : runsHalted i = true) (d : Device) : Accepts i d := by
  cases i with
  | init | rdstat => exact ⟨.inr rfl, rfl, nofun, nofun⟩
  | pushb | final | expand | next | rdbw | rdw | rdcnt => cases h

theorem exec_of_runsHalted {i : Instr} (h : runsHalted i = true) (s : State) : exec i s = .next (s.complete i) :=
  exec_of_accepts (accepts_of_runsHalted h s.dev)

theorem State.complete_init_complete_init (s : State) : (s.complete .init).complete .init = s.complete .init := rfl

/-! ### The bits of STATUS (R87) -/

theorem setWidth_shiftLeft_getLsbD {w : Nat} (x : BitVec w) (n : Nat) {j : Nat} (hj : j < 32) :
    (x.setWidth 32 <<< n).getLsbD j = (decide (n ≤ j) && x.getLsbD (j - n)) := by
  rw [BitVec.getLsbD_shiftLeft, BitVec.getLsbD_setWidth]
  grind

theorem ofFlag_shiftLeft_getLsbD (b : Bool) (n : Nat) {j : Nat} (hj : j < 32) :
    (Word.ofFlag b <<< n).getLsbD j = (decide (j = n) && b) := by
  rw [Word.ofFlag, setWidth_shiftLeft_getLsbD _ n hj, BitVec.getLsbD_ofBool]
  grind

/-- Every bit of STATUS: each field contributes from its own position on. -/
theorem Device.status_getLsbD (d : Device) {j : Nat} (hj : j < 32) :
    d.status.getLsbD j = (
      (decide (16 ≤ j) && d.err.getLsbD (j - 16)) || (decide (8 ≤ j) && d.fill.getLsbD (j - 8)) ||
      (decide (j = 5) && d.done) || (decide (j = 4) && d.lpend) || (decide (j = 3) && d.fin) ||
      (decide (j = 2) && d.last) || (decide (j = 1) && d.sv) || (decide (j = 0) && d.rdy)) := by
  rw [Device.status, ← BitVec.shiftLeft_zero (Word.ofFlag d.rdy)]
  simp only [BitVec.getLsbD_or, setWidth_shiftLeft_getLsbD _ _ hj, ofFlag_shiftLeft_getLsbD _ _ hj]

/-- The six flags stand in bits 0 to 5. -/
theorem Device.status_flags (d : Device) :
    d.status.getLsbD 0 = d.rdy ∧ d.status.getLsbD 1 = d.sv ∧ d.status.getLsbD 2 = d.last ∧
    d.status.getLsbD 3 = d.fin ∧ d.status.getLsbD 4 = d.lpend ∧ d.status.getLsbD 5 = d.done := by
  simp [Device.status_getLsbD, -BitVec.getLsbD_eq_getElem]

theorem Device.status_fill (d : Device) : d.status.extractLsb' 8 7 = d.fill := by
  ext i hi
  rw [BitVec.getElem_extractLsb', d.status_getLsbD (by omega)]
  grind

theorem Device.status_err (d : Device) : d.status.extractLsb' 16 4 = d.err := by
  ext i hi
  rw [BitVec.getElem_extractLsb', d.status_getLsbD (by omega)]
  grind

/-- The reserved bits lie past the end of the field below them, and before the start of the next. -/
theorem Device.status_reserved (d : Device) {j : Nat} (hj : 6 ≤ j ∧ j < 8 ∨ j = 15 ∨ 20 ≤ j ∧ j < 32) :
    d.status.getLsbD j = false := by
  rw [d.status_getLsbD (by omega)]
  grind

theorem extractLsb'_eq_zero {v : Word} {a n : Nat} (h : ∀ i < n, v.getLsbD (a + i) = false) :
    v.extractLsb' a n = 0 := by
  ext i hi
  rw [BitVec.getElem_extractLsb', h i hi]
  exact (BitVec.getElem_zero hi).symm

/-! ### The statements of 43_control.md: INIT and RDSTAT (R85 to R87) -/

/-- Settles O16: INIT is accepted in every state, and clearing a cleared device changes nothing. -/
theorem initStartsNewMessage : Obligations.InitStartsNewMessage := by
  intro s
  refine ⟨exec_of_runsHalted rfl s, fun t ht => ?_⟩
  rw [exec_of_runsHalted rfl] at ht
  cases ht
  rw [exec_of_runsHalted rfl, State.complete_init_complete_init]

/-- Settles O24: RDSTAT is accepted in every state, and its data word is STATUS, read field by field. -/
theorem rdstatReadsStatus : Obligations.RdstatReadsStatus := by
  intro s
  obtain ⟨hrdy, hsv, hlast, hfin, hlpend, hdone⟩ := s.dev.status_flags
  exact ⟨s.dev.status, exec_of_runsHalted rfl s, hrdy, hsv, hlast, hfin, hlpend, hdone,
    extractLsb'_eq_zero fun i hi => s.dev.status_reserved (by omega), s.dev.status_fill,
    s.dev.status_reserved (by decide), s.dev.status_err,
    extractLsb'_eq_zero fun i hi => s.dev.status_reserved (by omega)⟩

end Sys2Proof.Machine

namespace Sys2Proof.Machine

/-! ### The statements of 60_exceptions.md: rejections (R93, R96) -/

/-- What a rejection leaves of the device: `err` takes the first code, and never E_HALTED (R96). -/
theorem Device.recordError_eq (d : Device) (c : RspCode) :
    d.recordError c = { d with err := if c ≠ .eHalted ∧ d.err = 0 then c.bits else d.err } := by
  unfold Device.recordError
  split <;> rfl

/-- Settles O28: a word with another response than OK is rejected, and every rejection has one form. -/
theorem rejectionIsPrecise : Obligations.RejectionIsPrecise := by
  intro w s t rsp hrun hanswer hcode
  rcases runWord_outcome hrun with ⟨c, -, rfl⟩ | ⟨i, -, -, rfl⟩
  · cases hanswer
    rw [State.raise, Device.recordError_eq]
    rfl
  · cases hanswer
    exact absurd rfl hcode

/-- A code other than E_INVARIANT leaves no 5 in an `err` that did not hold it (R93). -/
theorem Device.recordError_err_eq_five {d : Device} {c : RspCode} (hc : c ≠ .eInvariant)
    (h : (d.recordError c).err = 5) : d.err = 5 := by
  rw [recordError_err] at h
  split at h
  next hrec =>
    have hle := RspCode.bits_le hrec.1 hc
    rw [h] at hle
    exact absurd hle (by decide)
  next => exact h

/-- Settles O34: no check answers E_INVARIANT, and an accepted command leaves `err` or clears it. -/
theorem invariantErrorNeverAnswered : Obligations.InvariantErrorNeverAnswered := by
  intro w s t hrun
  rcases runWord_outcome hrun with ⟨c, hr, rfl⟩ | ⟨i, -, -, rfl⟩
  · exact ⟨by simpa using hr.code_ne_eInvariant, Device.recordError_err_eq_five hr.code_ne_eInvariant⟩
  · refine ⟨by simp, fun herr => ?_⟩
    by_cases hi : i = .init
    · subst hi
      simp [Device.effect] at herr
    · rwa [State.complete_dev, Device.effect_err s.dev hi] at herr

/-! ### The statements of 60_exceptions.md: the halted state (R94, R97, R99) -/

/-- INIT and RDSTAT are the commands executed in the halted state (R97). -/
theorem runsHalted_eq_false_iff {i : Instr} : runsHalted i = false ↔ i ≠ .init ∧ i ≠ .rdstat := by
  cases i with
  | init | rdstat => simp [runsHalted]
  | pushb | final | expand | next | rdbw | rdw | rdcnt => simp [runsHalted]

/-- Settles O29: the check of `err` comes after decoding, and INIT and RDSTAT have no check. -/
theorem haltedDeviceRunsOnlyInitAndRdstat : Obligations.HaltedDeviceRunsOnlyInitAndRdstat := by
  intro s herr
  refine ⟨fun i hi hst => exec_of_halted herr (runsHalted_eq_false_iff.2 ⟨hi, hst⟩), fun w e hdec => ?_,
    ⟨s.dev.status, exec_of_runsHalted rfl s, s.dev.status_err⟩, ⟨_, exec_of_runsHalted rfl s, rfl, rfl⟩⟩
  rw [runWord_of_error s hdec, reject_eq, recordError_of_err _ _ herr]

/-- A word that changes a halted device is INIT's, and it clears the message (R97, R99). -/
theorem runWord_changes_halted {w : Word} {s t : State} (herr : s.dev.err ≠ 0) (hrun : runWord w s = .next t)
    (hne : t.dev ≠ s.dev) : w = 0x01000000 ∧ t.dev = s.dev.clearMessage := by
  rcases runWord_outcome hrun with ⟨c, -, rfl⟩ | ⟨i, hdec, ha, rfl⟩
  · exact absurd (recordError_of_err s.dev c herr) hne
  · cases i with
    | init => exact ⟨eq_of_decode_init hdec, rfl⟩
    | rdstat => exact absurd rfl hne
    | pushb | final | expand | next | rdbw | rdw | rdcnt => cases ha.running.resolve_left herr

/-- Settles O30, by the kinds of edge: only reset and an accepted word touch the device. -/
theorem onlyInitOrResetLeavesHalted : Obligations.OnlyInitOrResetLeavesHalted := by
  intro s t herr hstep hne
  rcases edge_cases s with ⟨hr, he⟩ | ⟨-, hp, hv, he⟩ | ⟨-, -, -, he⟩ | ⟨-, rsp, n, -, he⟩ | ⟨-, rsp, -, he⟩
  · rw [step_of_settles he] at hstep
    cases hstep
    exact ⟨.inl hr, rfl, rfl, rfl, rfl, rfl⟩
  · rw [step_of_accepts he] at hstep
    obtain ⟨hw, hdev⟩ := runWord_changes_halted (s := s.sampled.latchCommand _) herr hstep hne
    rw [hdev]
    exact ⟨.inr ⟨hp, hv, hw⟩, rfl, rfl, rfl, rfl, rfl⟩
  all_goals
    rw [step_of_settles he] at hstep
    cases hstep
    simp at hne

/-! ### The statements of 60_exceptions.md: the checks in their order (R91, R98) -/

/-- With `err` = 0, E_SEQ answers exactly the failure of the state precondition (R91). -/
theorem answerOf_exec_eq_eSeq_iff {s : State} (herr : s.dev.err = 0) (i : Instr) :
    (answerOf (exec i s)).map Response.code = some .eSeq ↔ s.dev.allows i = false := by
  refine ⟨fun h => ?_, fun hdenied => by rw [exec_of_denied herr hdenied]; rfl⟩
  cases hexec : exec i s with
  | fault | refused => simp [hexec, answerOf] at h
  | next t =>
    rw [hexec, answerOf] at h
    rcases exec_outcome hexec with ⟨c, hr, rfl⟩ | ⟨-, rfl⟩
    · obtain rfl : c = .eSeq := by simpa using h
      cases hr with
      | sequence _ hdenied => exact hdenied
    · simp at h

/-- Settles O31: the precondition of each command, written in the flags it looks at. -/
theorem sequenceErrorsByPrecondition : Obligations.SequenceErrorsByPrecondition := by
  intro s herr i
  rw [answerOf_exec_eq_eSeq_iff herr i]
  cases i with
  | init | rdcnt | rdstat => simp [Device.allows]
  | pushb | final => simp only [Device.allows, Bool.and_eq_false_iff, Bool.not_eq_false']
  | expand | next | rdbw | rdw => rfl

/-- A command that passes the check of `err` runs in the halted state or finds none recorded (R94, R97). -/
theorem Accepts.passes_halt_check {i : Instr} {d : Device} (ha : Accepts i d) :
    ¬(d.err ≠ 0 ∧ i ≠ .init ∧ i ≠ .rdstat) := by
  rintro ⟨herr, hi⟩
  have hhalt := ha.running.resolve_left herr
  simp [runsHalted_eq_false_iff.2 hi] at hhalt

/-- Settles O32: each reason for a rejection is the first check that fails, and an accepted command fails none. -/
theorem checksAreMadeInOrder : Obligations.ChecksAreMadeInOrder := by
  intro w s hs
  cases hdec : decode w with
  | error e =>
    rw [runWord_of_error s hdec]
    rfl
  | ok i =>
    rw [runWord_of_ok s hdec]
    rcases hs.accepts_or_rejects i with ha | ⟨c, hr⟩
    · have hallow : ¬s.dev.allows i = false := by simp [ha.allowed]
      simp only [exec_of_accepts ha, if_neg ha.passes_halt_check, if_neg hallow]
      cases i with
      | pushb b =>
        obtain ⟨hlen, -⟩ := ha.push_room b rfl
        simp only [if_neg (mt (bitLen_eq_max_iff _).2 hlen)]
        rfl
      | init | final | expand | next | rdbw | rdw | rdcnt | rdstat => rfl
    · rw [exec_of_rejects hr]
      cases hr with
      | halted herr hi =>
        simp only [if_pos (And.intro herr (runsHalted_eq_false_iff.1 hi))]
        rfl
      | sequence herr hdenied =>
        have hrun : ¬(s.dev.err ≠ 0 ∧ i ≠ .init ∧ i ≠ .rdstat) := fun h => h.1 herr
        simp only [if_neg hrun, if_pos hdenied]
        rfl
      | overflow herr hallow hpush hlen =>
        obtain ⟨b, rfl⟩ := hpush
        simp [herr, hallow, (bitLen_eq_max_iff _).1 hlen, answerOf]

/-! ### The statements of 60_exceptions.md: the longest message (R92) -/

/-- Byte `j` of `BE64bytes(v)` is a base-256 digit of `v`, the most significant first (R10). -/
theorem be64Byte_toNat (v : DWord) (j : Nat) : (be64Byte v j).toNat = v.toNat / 2 ^ (56 - 8 * j) % 256 := by
  rw [be64Byte, BitVec.extractLsb'_toNat, Nat.shiftRight_eq_div_pow]

/-- Words 14 and 15 of the length-only block are the length, the high half first (R69, R73). -/
theorem blockWord_lengthBlock (len : DWord) :
    blockWord (lengthBlock len) 14 = len.extractLsb' 32 32 ∧
    blockWord (lengthBlock len) 15 = len.extractLsb' 0 32 := by
  refine ⟨BitVec.eq_of_toNat_eq ?_, BitVec.eq_of_toNat_eq ?_⟩
  all_goals
    simp [blockWord_toNat, be64Byte_toNat, Nat.shiftRight_eq_div_pow]
    omega

/-- The longest message leaves 63 bytes in block 2^55 - 1 (R92). -/
theorem Device.Inv.position_of_longest {d : Device} (h : d.Inv) (hf : d.fin = false)
    (hlen : d.bitLen.toNat = 2 ^ 64 - 8) : d.fill = 63 ∧ d.blkIdx.toNat = 2 ^ 55 - 1 := by
  have hcount := h.open_count hf
  have hfill := h.fill_le
  exact ⟨BitVec.eq_of_toNat_eq (by simp; omega), by omega⟩

/-- FINAL of an open message that leaves no room for the length, then NEXT, present the length-only block (R69). -/
theorem runAccepted_final_next {s : State} (herr : s.dev.err = 0) (hf : s.dev.fin = false) (hr : s.dev.rdy = false)
    (hroom : 55 < s.dev.fill.toNat) (hfill : s.dev.fill.toNat < 64) :
    ∃ t, runAccepted [.final, .next] s = some t ∧ t.dev.last = true ∧ t.dev.buf = lengthBlock s.dev.bitLen := by
  have hfinal := Device.accepts_final herr hf hr hfill
  have hnext : Accepts .next (s.complete .final).dev := Device.accepts_next herr rfl
  have hpend : (s.complete .final).dev.lpend = true := by simp [Device.effect, hroom]
  refine ⟨_, (runAccepted_cons_of_accepts _ hfinal).trans (runAccepted_cons_of_accepts [] hnext), ?_⟩
  rw [State.complete_dev, Device.effect, Device.release_of_lpend _ hpend]
  exact ⟨rfl, rfl⟩

/-- Settles O33: the byte count fixes `fill`, which leaves no room for the length, so NEXT builds the length-only block. -/
theorem longestMessageEndsInLengthBlock : Obligations.LongestMessageEndsInLengthBlock := by
  intro s hs herr hf hlen
  obtain ⟨hfill, hidx⟩ := hs.position_of_longest hf hlen
  have hmax := (bitLen_eq_max_iff _).2 hlen
  have hr : s.dev.rdy = false := by
    by_contra hr
    simp [hs.fill_eq_of_rdy (by simpa using hr)] at hfill
  obtain ⟨t, hrun, hlast, hbuf⟩ := runAccepted_final_next herr hf hr (by simp [hfill]) (by simp [hfill])
  obtain ⟨hhigh, hlow⟩ := blockWord_lengthBlock s.dev.bitLen
  refine ⟨hfill, hidx, fun b => by rw [exec_pushb_of_longest b herr hf hr hmax]; rfl, t, hrun, hlast, ?_, ?_⟩
  · rw [hbuf, hhigh, hmax]
    decide
  · rw [hbuf, hlow, hmax]
    decide

/-! ### The statements of 60_exceptions.md: between commands (R107) -/

/-- What holds of the next inputs and of a quiet host holds at the first of the coming edges and at the others. -/
theorem State.forall_take_succ {P : Pins → Prop} {s : State} {n : Nat} (hquiet : P Pins.quiet)
    (h : ∀ p ∈ s.pins.take (n + 1), P p) : P s.input ∧ ∀ p ∈ s.sampled.pins.take n, P p := by
  unfold State.input
  cases hp : s.pins with
  | nil => exact ⟨hquiet, by simp [hp]⟩
  | cons p ps => simpa [hp] using h

/-- An idle edge consumes the host's inputs and changes nothing else (R107). -/
theorem step_of_idle {s : State} (hp : s.port = .idle) (hr : s.input.rst = false) (hv : s.input.cmdValid = false) :
    step s = .next s.sampled :=
  step_of_settles (by simp [State.edge, hp, hr, hv])

/-- Settles O12, by induction on the number of edges. -/
theorem idleDeviceHoldsItsState : Obligations.IdleDeviceHoldsItsState := by
  intro n
  induction n with
  | zero =>
    intro s _ _
    rfl
  | succ n ih =>
    intro s hp hpins
    obtain ⟨⟨hr, hv⟩, hrest⟩ := State.forall_take_succ ⟨rfl, rfl⟩ hpins
    rw [run_succ n (step_of_idle hp hr hv), ih s.sampled hp hrest, State.sampled_pins, List.drop_tail]
    rfl

end Sys2Proof.Machine

namespace Sys2Proof.Machine

/-! ### The result of a run, one command at a time (R116) -/

/-- A rejected command presents nothing: it changes `err` at most (R66, R96). -/
theorem presents_of_rejected (i : Instr) (d : Device) (c : RspCode) : presents i d (d.recordError c) = false :=
  presents_of_unchanged (d.recordError_rdy c) (d.recordError_lpend c)

/-- A rejected command is no use of a block. -/
theorem BlockUse.preceded_of_rejected (u : BlockUse) (i : Instr) {rsp : Response} (h : rsp.code ≠ .ok) :
    u.preceded i rsp = u :=
  if_neg h

/-- The state a transaction leaves: the word sampled, its effect on the device, and its response taken (R40). -/
def State.served (s : State) (w : Word) (d : Device) : State := { s with dev := d, cmd := w, port := .idle }

@[simp] theorem State.served_dev (s : State) (w : Word) (d : Device) : (s.served w d).dev = d := rfl

theorem transact_of_accepts {w : Word} {i : Instr} {s : State} (hd : decode w = .ok i) (ha : Accepts i s.dev) :
    transact w s = some (s.served w (s.dev.effect i), ⟨.ok, s.dev.reads i⟩) :=
  (ha.answersWith hd).transact rfl

theorem transact_of_rejectsWord {w : Word} {c : RspCode} {s : State} (h : RejectsWord w s.dev c) :
    transact w s = some (s.served w (s.dev.recordError c), ⟨c, 0⟩) :=
  h.answersWith.transact rfl

theorem runResult_cons_of_accepts {w : Word} {i : Instr} {s : State} (ws : List Word) (hd : decode w = .ok i)
    (ha : Accepts i s.dev) :
    runResult (w :: ws) s =
      (runResult ws (s.served w (s.dev.effect i))).preceded i s.dev (s.dev.effect i) ⟨.ok, s.dev.reads i⟩ :=
  runResult_cons ws (transact_of_accepts hd ha) hd

/-- A rejected word leaves no trace in the result of a run. -/
theorem runResult_cons_of_rejectsWord {w : Word} {c : RspCode} {s : State} (ws : List Word)
    (h : RejectsWord w s.dev c) : runResult (w :: ws) s = runResult ws (s.served w (s.dev.recordError c)) := by
  have ht := transact_of_rejectsWord h
  cases h with
  | illegal hd => exact runResult_cons_illegal ws ht hd
  | command hd hr =>
    rw [runResult_cons ws ht hd, State.served_dev, RunResult.preceded_of_not_presents _ _ (presents_of_rejected _ _ c),
      BlockUse.preceded_of_rejected _ _ hr.code_ne_ok]

theorem presentations_cons_of_rejects {i : Instr} {c : RspCode} {s : State} (is : List Instr)
    (h : Rejects i s.dev c) : presentations (i :: is) s = presentations is (s.raise c) := by
  simp [presentations, exec_of_rejects h, presents_of_rejected i s.dev c]

/-- A command that is neither accepted nor rejected stops the machine: it presents nothing. -/
theorem presentations_cons_of_stuck {i : Instr} {s : State} (is : List Instr) (ha : ¬ Accepts i s.dev)
    (hr : ∀ c, ¬ Rejects i s.dev c) : presentations (i :: is) s = [] := by
  unfold presentations
  split
  next hexec =>
    rcases exec_outcome hexec with ⟨c, hc, -⟩ | ⟨h, -⟩
    · exact absurd hc (hr c)
    · exact absurd h ha
  all_goals rfl

/-- Nor has it a response, so the result of the run ends there. -/
theorem runResult_cons_of_stuck {w : Word} {i : Instr} {s : State} (ws : List Word) (hd : decode w = .ok i)
    (ha : ¬ Accepts i s.dev) (hr : ∀ c, ¬ Rejects i s.dev c) : runResult (w :: ws) s = ⟨.unused, []⟩ := by
  have hstop : transact w s = none := by
    cases ht : transact w s with
    | none => rfl
    | some p =>
      rcases transact_outcome ht with ⟨c, hc, -⟩ | ⟨j, hj, h, -⟩
      · cases hc with
        | illegal he => simp [hd] at he
        | command hj h =>
          cases hd.symm.trans hj
          exact absurd h (hr c)
      · cases hd.symm.trans hj
        exact absurd h ha
  simp only [runResult, hstop]

theorem RunResult.preceded_shown (r : RunResult) (i : Instr) (d e : Device) (rsp : Response) :
    (r.preceded i d e rsp).blocks.map ShownBlock.shown =
      if presents i d e then e.presentation :: r.blocks.map ShownBlock.shown else r.blocks.map ShownBlock.shown := by
  unfold RunResult.preceded
  split <;> rfl

/-- The blocks of a result depend on the device alone, and are those the run presents. -/
theorem shown_runResult (cmds : List Instr) {s r : State} (h : r.dev = s.dev) :
    (runResult (cmds.map encode) r).blocks.map ShownBlock.shown = presentations cmds s := by
  induction cmds generalizing s r with
  | nil => rfl
  | cons i is ih =>
    have hd := decode_encode i
    rw [List.map_cons]
    by_cases ha : Accepts i s.dev
    · rw [runResult_cons_of_accepts _ hd (h ▸ ha), presentations_cons_of_accepts is ha, RunResult.preceded_shown, h,
        ih (s := s.complete i) (r := r.served _ _) rfl, State.complete_dev]
    · by_cases hr : ∃ c, Rejects i s.dev c
      · obtain ⟨c, hr⟩ := hr
        rw [runResult_cons_of_rejectsWord _ (.command hd (h ▸ hr)), presentations_cons_of_rejects is hr, h,
          ih (s := s.raise c) (r := r.served _ _) rfl]
      · have hnone := not_exists.1 hr
        rw [runResult_cons_of_stuck _ hd (h ▸ ha) (h ▸ hnone), presentations_cons_of_stuck is ha hnone]
        rfl

/-! ### Schedule words read are of their own block (R17, R116) -/

/-- The schedule of the block in `buf`, from its bytes. -/
theorem scheduleOf_toList (buf : Vector Byte 64) : scheduleOf buf.toList = expand (blockWords buf) := by
  have hbuf : (Vector.ofFn fun k : Fin 64 => buf.toList.getD k.val 0) = buf := by
    ext k hk
    simp
  rw [scheduleOf, hbuf]

/-- What a command adds to the words read of a block: the word of an accepted RDW. -/
theorem BlockUse.mem_preceded_words {u : BlockUse} {i : Instr} {rsp : Response} {p : Fin 64 × Word}
    (h : p ∈ (u.preceded i rsp).words) : p ∈ u.words ∨ i = .rdw p.1 ∧ p.2 = rsp.data := by
  unfold BlockUse.preceded at h
  split at h
  · cases i with
    | rdw t =>
      rcases List.mem_cons.1 h with rfl | h
      · exact .inr ⟨rfl, rfl⟩
      · exact .inl h
    | init | pushb | final | expand | next | rdbw | rdcnt | rdstat => exact .inl h
  · exact .inl h

/-- A block counts as expanded when it is expanded later, or by this very command. -/
theorem BlockUse.preceded_expanded {u : BlockUse} {i : Instr} {rsp : Response}
    (h : u.expanded = true ∨ i = .expand ∧ rsp.code = .ok) : (u.preceded i rsp).expanded = true := by
  rcases h with h | ⟨rfl, hok⟩
  · unfold BlockUse.preceded
    split
    · cases i with
      | expand => rfl
      | init | pushb | final | next | rdbw | rdw | rdcnt | rdstat => exact h
    · exact h
  · simp [BlockUse.preceded, hok]

/-- The words of `u` are read of the block that `d` presents, once it is expanded. -/
def BlockUse.ReadOf (u : BlockUse) (d : Device) : Prop :=
  ∀ p ∈ u.words, d.rdy = true ∧ (d.sv = true ∨ u.expanded = true) ∧ p.2 = (expand (blockWords d.buf))[p.1.val]

/-- The words read of a block are those of its own schedule, and the block was expanded (R116). -/
def ShownBlock.ReadsOwnSchedule (b : ShownBlock) : Prop :=
  ∀ p ∈ b.use.words, b.use.expanded = true ∧ p.2 = (scheduleOf b.shown.block)[p.1.val]

theorem BlockUse.ReadOf.readsOwnSchedule {u : BlockUse} {d : Device} (h : u.ReadOf d) (hsv : d.sv = false) :
    ShownBlock.ReadsOwnSchedule ⟨d.presentation, u⟩ := by
  intro p hp
  obtain ⟨-, hexp, hword⟩ := h p hp
  refine ⟨by simpa [hsv] using hexp, ?_⟩
  rw [hword, Device.presentation, scheduleOf_toList]

/-- A block has no schedule when it is presented: NEXT forgets the one before, and there is none while `rdy` = 0. -/
theorem Device.Inv.sv_of_presents {d : Device} {i : Instr} (h : d.Inv) (ha : Accepts i d)
    (hp : presents i d (d.effect i) = true) : (d.effect i).sv = false := by
  rcases ha.presents_iff.1 hp with ⟨⟨b, rfl⟩ | rfl, hr, -⟩ | ⟨rfl, -⟩
  · exact h.sv_of_not_rdy hr
  · exact h.sv_of_not_rdy hr
  · exact d.release_sv

/-- A block in `buf` after a command that presents none was there before it, with its schedule unless the command is
EXPAND. -/
theorem Accepts.block_kept {d : Device} {i : Instr} (ha : Accepts i d) (hp : presents i d (d.effect i) = false)
    (hr : (d.effect i).rdy = true) :
    d.rdy = true ∧ (d.effect i).buf = d.buf ∧ ((d.effect i).sv = true → d.sv = true ∨ i = .expand) := by
  have hrdy : d.rdy = true := by
    by_contra h
    simp [presents, hr, h] at hp
  refine ⟨hrdy, ?_⟩
  cases i with
  | init => cases hr
  | pushb | final => simpa [Device.allows, hrdy] using ha.allowed
  | next =>
    have hp' : d.lpend = true := d.release_rdy ▸ hr
    simp [presents, Device.effect, hp'] at hp
  | expand => exact ⟨rfl, fun _ => .inr rfl⟩
  | rdbw | rdw | rdcnt | rdstat => exact ⟨rfl, .inl⟩

/-- A command before the others keeps the words read those of the block presented. -/
theorem BlockUse.ReadOf.preceded {u : BlockUse} {d : Device} {i : Instr} (h : u.ReadOf (d.effect i)) (hd : d.Inv)
    (ha : Accepts i d) (hp : presents i d (d.effect i) = false) :
    (u.preceded i ⟨.ok, d.reads i⟩).ReadOf d := by
  intro p hmem
  rcases BlockUse.mem_preceded_words hmem with hmem | ⟨rfl, hword⟩
  · obtain ⟨hr, hexp, hword⟩ := h p hmem
    obtain ⟨hrdy, hbuf, hsv⟩ := ha.block_kept hp hr
    refine ⟨hrdy, ?_, hbuf ▸ hword⟩
    rcases hexp with hexp | hexp
    · exact (hsv hexp).imp_right fun hi => BlockUse.preceded_expanded (.inr ⟨hi, rfl⟩)
    · exact .inr (BlockUse.preceded_expanded (.inl hexp))
  · have hsv : d.sv = true := ha.allowed
    exact ⟨hd.sv_rdy hsv, .inl hsv, by rw [hword, ← hd.schedule hsv]; rfl⟩

/-- The result of a run from `d`: what is read before the first presentation is of the block `d` presents, and the rest
is of its own block. -/
def RunResult.ReadsOwnSchedules (r : RunResult) (d : Device) : Prop :=
  r.atStart.ReadOf d ∧ ∀ b ∈ r.blocks, b.ReadsOwnSchedule

theorem RunResult.readsOwnSchedules_empty (d : Device) : RunResult.ReadsOwnSchedules ⟨.unused, []⟩ d :=
  ⟨nofun, nofun⟩

theorem RunResult.ReadsOwnSchedules.preceded {r : RunResult} {d : Device} {i : Instr}
    (h : r.ReadsOwnSchedules (d.effect i)) (hd : d.Inv) (ha : Accepts i d) :
    (r.preceded i d (d.effect i) ⟨.ok, d.reads i⟩).ReadsOwnSchedules d := by
  obtain ⟨hstart, hblocks⟩ := h
  cases hp : presents i d (d.effect i) with
  | true =>
    rw [RunResult.preceded_of_presents r _ hp]
    exact ⟨nofun, List.forall_mem_cons.2 ⟨hstart.readsOwnSchedule (hd.sv_of_presents ha hp), hblocks⟩⟩
  | false =>
    rw [RunResult.preceded_of_not_presents r _ hp]
    exact ⟨hstart.preceded hd ha hp, hblocks⟩

/-- A rejection changes neither the block presented nor its schedule (R96). -/
theorem RunResult.ReadsOwnSchedules.of_recordError {r : RunResult} {d : Device} {c : RspCode}
    (h : r.ReadsOwnSchedules (d.recordError c)) : r.ReadsOwnSchedules d := by
  simpa [RunResult.ReadsOwnSchedules, BlockUse.ReadOf] using h

/-- Under the invariant the checks of R98 decide every word. -/
theorem Device.Inv.acceptsWord_or_rejectsWord {d : Device} (h : d.Inv) (w : Word) :
    (∃ i, decode w = .ok i ∧ Accepts i d) ∨ ∃ c, c ≠ .eInvariant ∧ RejectsWord w d c := by
  cases hd : decode w with
  | error e => exact .inr ⟨.eIllegal, by decide, .illegal hd⟩
  | ok i =>
    rcases h.accepts_or_rejects i with ha | ⟨c, hr⟩
    · exact .inl ⟨i, rfl, ha⟩
    · exact .inr ⟨c, hr.code_ne_eInvariant, .command hd hr⟩

theorem runResult_readsOwnSchedules (ws : List Word) {s : State} (hs : s.dev.Inv) :
    (runResult ws s).ReadsOwnSchedules s.dev := by
  induction ws generalizing s with
  | nil => exact RunResult.readsOwnSchedules_empty _
  | cons w ws ih =>
    rcases hs.acceptsWord_or_rejectsWord w with ⟨i, hd, ha⟩ | ⟨c, hc, hr⟩
    · rw [runResult_cons_of_accepts ws hd ha]
      exact (ih (s := s.served w _) (hs.effect ha)).preceded hs ha
    · rw [runResult_cons_of_rejectsWord ws hr]
      exact (ih (s := s.served w _) (hs.recordError hc)).of_recordError

/-! ### The statements of 70_reset_and_hazards.md: reset, and the result of a run (R109, R110, R116) -/

/-- Settles O13: the edge takes no response, and leaves the reset state. -/
theorem resetEdgeDiscardsEverything : Obligations.ResetEdgeDiscardsEverything := by
  intro s hr
  have hstep : step s = .next s.sampled.resetEdge := step_of_settles (by simp [State.edge, hr])
  have hquiet : s.sampled.resetEdge.rspValid = false :=
    congrArg Option.isSome (State.rspOut_of_idle rfl)
  exact ⟨by simp [State.cmdReady, hr], by simp [State.taken, hr], _, hstep, rfl, hquiet, rfl, by simp⟩

/-- Settles O55, by induction on the commands: each is accepted, rejected, or stops the machine. -/
theorem runResultShowsThePresentations : Obligations.RunResultShowsThePresentations :=
  fun cmds _ => shown_runResult cmds rfl

/-- Settles O56, by induction on the words: what is read before the next presentation is of the block in `buf`. -/
theorem scheduleWordsReadAreOfTheirBlock : Obligations.ScheduleWordsReadAreOfTheirBlock :=
  fun ws _ hs => (runResult_readsOwnSchedules ws hs).2

end Sys2Proof.Machine

namespace Sys2Proof.Machine

/-! ### The stages of a message that the host sends (R26, R111) -/

/-- Between two commands of an error-free message: `n` bytes are absorbed, and `fin`, `rdy` and `lpend` are as given. -/
structure Device.Stage (d : Device) (n : Nat) (fin rdy lpend : Bool) : Prop where
  inv : d.Inv
  err : d.err = 0
  length : d.bitLen.toNat = 8 * n
  fin_eq : d.fin = fin
  rdy_eq : d.rdy = rdy
  lpend_eq : d.lpend = lpend

theorem Device.clearMessage_stage (d : Device) : d.clearMessage.Stage 0 false false false :=
  ⟨d.clearMessage_inv, rfl, rfl, rfl, rfl, rfl⟩

/-- The place of the next byte of an open message (R64). -/
theorem Device.Stage.fill_of_open {d : Device} {n : Nat} (h : d.Stage n false false false) :
    d.fill.toNat = n % 64 := by
  have hcount := h.inv.open_count h.fin_eq
  have hfill := h.inv.fill_lt_of_not_rdy h.rdy_eq
  have hlen := h.length
  omega

/-- The index of a block that the message filled (R66). -/
theorem Device.Stage.blkIdx_of_filled {d : Device} {n : Nat} (h : d.Stage (n + 1) false true false) :
    d.blkIdx.toNat = n / 64 := by
  have hcount := h.inv.open_count h.fin_eq
  have hlen := h.length
  rw [h.inv.fill_eq_of_rdy h.rdy_eq] at hcount
  simp at hcount
  omega

/-- The index of the block before a length-only block (R66). -/
theorem Device.Stage.blkIdx_of_lpend {d : Device} {n : Nat} {fin rdy : Bool} (h : d.Stage n fin rdy true) :
    d.blkIdx.toNat = n / 64 := by
  have hlen := h.length
  obtain ⟨hle, hlt⟩ := h.inv.index_lpend h.lpend_eq
  rw [messageBytes] at hle hlt
  omega

/-- The index of the last block (R66). -/
theorem Device.Stage.blkIdx_of_last {d : Device} {n : Nat} (h : d.Stage n true true false) :
    d.blkIdx.toNat = (n + 8) / 64 := by
  have hlast : d.last = true := (h.inv.presenting_tail h.fin_eq h.rdy_eq).resolve_right (by simp [h.lpend_eq])
  have hlen := h.length
  rw [h.inv.index_last hlast, messageBytes]
  omega

theorem Device.Stage.accepts_pushb {d : Device} {n : Nat} (h : d.Stage n false false false) (b : Byte)
    (hn : n + 1 ≤ 2 ^ 61 - 1) : Accepts (.pushb b) d := by
  have hlen := h.length
  have hmax : d.bitLen ≠ Config.maxBitLen := by
    rw [Ne, bitLen_eq_max_iff]
    omega
  exact ⟨.inl h.err, by simp [allows, h.fin_eq, h.rdy_eq], fun _ _ => ⟨hmax, h.inv.fill_lt_of_not_rdy h.rdy_eq⟩, nofun⟩

/-- PUSHB absorbs a byte, and every 64th fills the block (R67). -/
theorem Device.Stage.pushByte {d : Device} {n : Nat} (h : d.Stage n false false false) (b : Byte)
    (hn : n + 1 ≤ 2 ^ 61 - 1) : (d.pushByte b).Stage (n + 1) false (decide ((n + 1) % 64 = 0)) false where
  inv := h.inv.effect (h.accepts_pushb b hn)
  err := h.err
  length := by
    have hlen := h.length
    rw [pushByte_bitLen]
    bv_omega
  fin_eq := h.fin_eq
  rdy_eq := by
    have hfill := h.fill_of_open
    have hfull : (d.fill.toNat = 63) = ((n + 1) % 64 = 0) := propext (by omega)
    rw [pushByte_of_room b h.rdy_eq (h.inv.fill_lt_of_not_rdy h.rdy_eq)]
    simp only [hfull]
  lpend_eq := h.lpend_eq

/-- FINAL presents the last block, or the one before a length-only block when fewer than 8 bytes are left (R68). -/
theorem Device.Stage.closeMessage {d : Device} {n : Nat} (h : d.Stage n false false false) :
    d.closeMessage.Stage n true true (!decide (n % 64 ≤ 55)) where
  inv := h.inv.closeMessage h.fin_eq h.rdy_eq
  err := h.err
  length := h.length
  fin_eq := rfl
  rdy_eq := rfl
  lpend_eq := by rw [closeMessage_lpend, h.fill_of_open]

theorem Device.Stage.expandBlock {d : Device} {n : Nat} {fin lpend : Bool} (h : d.Stage n fin true lpend) :
    d.expandBlock.Stage n fin true lpend :=
  { h with inv := h.inv.expandBlock h.rdy_eq }

/-- NEXT leaves a block in `buf` exactly when it builds the length-only block (R69). -/
theorem Device.Stage.release {d : Device} {n : Nat} {fin lpend : Bool} (h : d.Stage n fin true lpend) :
    d.release.Stage n fin lpend false where
  inv := h.inv.release h.rdy_eq
  err := d.release_err.trans h.err
  length := by rw [release_bitLen, h.length]
  fin_eq := d.release_fin.trans h.fin_eq
  rdy_eq := d.release_rdy.trans h.lpend_eq
  lpend_eq := d.release_lpend

/-! ### Programs that end a message, with the use they make of its blocks (R111, R116) -/

/-- The use of a block that the host visits as `v` says: the words it asks for, from the block's own schedule. -/
def BlockVisit.use (v : BlockVisit) (block : List Byte) : BlockUse :=
  ⟨v.scheduleReads.isSome, (v.scheduleReads.getD []).map fun t => (t, (scheduleOf block)[t.val])⟩

/-- A presented block with the use of its visit. -/
def Presentation.visited (visit : Nat → BlockVisit) (p : Presentation) : ShownBlock :=
  ⟨p, (visit p.index).use p.block⟩

/-- The commands, none of them INIT, are all accepted from `d` on and end its message.  Before they present a block they
use the one in `buf` as `u` says, and they visit each block they present as `visit` says. -/
inductive EndsMessage (visit : Nat → BlockVisit) : List Instr → Device → BlockUse → Prop where
  | done {d : Device} : d.done = true → d.err = 0 → EndsMessage visit [] d .unused
  | use {i : Instr} {is : List Instr} {d : Device} {u : BlockUse} : i ≠ .init → Accepts i d →
      presents i d (d.effect i) = false → EndsMessage visit is (d.effect i) u →
      EndsMessage visit (i :: is) d (u.preceded i ⟨.ok, d.reads i⟩)
  | present {i : Instr} {is : List Instr} {d : Device} : i ≠ .init → Accepts i d →
      presents i d (d.effect i) = true →
      EndsMessage visit is (d.effect i) ((visit (d.effect i).blkIdx.toNat).use (d.effect i).buf.toList) →
      EndsMessage visit (i :: is) d .unused

section
variable {visit : Nat → BlockVisit} {is : List Instr} {d : Device} {u : BlockUse} {n : Nat} {fin lpend : Bool}

theorem EndsMessage.cons_inv {i : Instr} (h : EndsMessage visit (i :: is) d u) :
    i ≠ .init ∧ Accepts i d ∧ ∃ u', EndsMessage visit is (d.effect i) u' := by
  cases h with
  | use hi ha _ h => exact ⟨hi, ha, _, h⟩
  | present hi ha _ h => exact ⟨hi, ha, _, h⟩

theorem EndsMessage.ne_init (h : EndsMessage visit is d u) : ∀ i ∈ is, i ≠ .init := by
  induction is generalizing d u with
  | nil => nofun
  | cons i is ih =>
    obtain ⟨hi, -, u', h'⟩ := h.cons_inv
    exact List.forall_mem_cons.2 ⟨hi, ih h'⟩

theorem EndsMessage.runs {s : State} (h : EndsMessage visit is s.dev u) :
    ∃ t, runAccepted is s = some t ∧ t.dev.done = true := by
  induction is generalizing s u with
  | nil =>
    cases h with
    | done hdone => exact ⟨s, rfl, hdone⟩
  | cons i is ih =>
    obtain ⟨-, ha, u', h'⟩ := h.cons_inv
    rw [runAccepted_cons_of_accepts is ha]
    exact ih (s := s.complete i) h'

/-- An accepted command keeps a run clean (R116). -/
theorem cleanRun_cons_of_accepts {w : Word} {ws : List Word} {i : Instr} {s : State} (hd : decode w = .ok i)
    (ha : Accepts i s.dev) (h : CleanRun ws (s.served w (s.dev.effect i))) : CleanRun (w :: ws) s := by
  obtain ⟨t, hrun, hok, hend⟩ := h
  have hstep := transact_of_accepts hd ha
  refine ⟨t, (afterWords_cons ws hstep).trans hrun, ?_, hend⟩
  rw [transcript_cons ws hstep]
  exact List.forall_mem_cons.2 ⟨rfl, hok⟩

theorem EndsMessage.cleanRun {s : State} (h : EndsMessage visit is s.dev u) : CleanRun (is.map encode) s := by
  induction is generalizing s u with
  | nil =>
    cases h with
    | done hdone herr => exact ⟨s, rfl, nofun, hdone, herr⟩
  | cons i is ih =>
    obtain ⟨-, ha, u', h'⟩ := h.cons_inv
    exact cleanRun_cons_of_accepts (decode_encode i) ha (ih (s := s.served _ _) h')

theorem EndsMessage.result {s : State} (h : EndsMessage visit is s.dev u) :
    (runResult (is.map encode) s).atStart = u ∧
      ∀ b ∈ (runResult (is.map encode) s).blocks, b.shown.visited visit = b := by
  generalize hs : s.dev = d at h
  induction h generalizing s with
  | done => exact ⟨rfl, nofun⟩
  | @use i is d u _ ha hp _ ih =>
    subst hs
    obtain ⟨hstart, hblocks⟩ := ih (s := s.served (encode i) _) rfl
    rw [List.map_cons, runResult_cons_of_accepts _ (decode_encode i) ha, RunResult.preceded_of_not_presents _ _ hp]
    exact ⟨congrArg (BlockUse.preceded · i ⟨.ok, s.dev.reads i⟩) hstart, hblocks⟩
  | @present i is d _ ha hp _ ih =>
    subst hs
    obtain ⟨hstart, hblocks⟩ := ih (s := s.served (encode i) _) rfl
    rw [List.map_cons, runResult_cons_of_accepts _ (decode_encode i) ha, RunResult.preceded_of_presents _ _ hp]
    exact ⟨rfl, List.forall_mem_cons.2 ⟨congrArg (ShownBlock.mk _) hstart.symm, hblocks⟩⟩

/-! ### The parts of R111's sequence, from the last to the first -/

/-- A read leaves the device as it is. -/
theorem EndsMessage.read {i : Instr} (hi : isRead i = true) (ha : Accepts i d) (h : EndsMessage visit is d u) :
    EndsMessage visit (i :: is) d (u.preceded i ⟨.ok, d.reads i⟩) := by
  have heff := d.effect_of_isRead hi
  exact .use (by rintro rfl; cases hi) ha (heff.symm ▸ presents_of_unchanged rfl rfl) (heff.symm ▸ h)

theorem EndsMessage.blockReads (js : List (Fin 16)) (herr : d.err = 0) (hr : d.rdy = true)
    (h : EndsMessage visit is d u) : EndsMessage visit (js.map .rdbw ++ is) d u := by
  induction js with
  | nil => exact h
  | cons j js ih => exact ih.read (i := .rdbw j) rfl ⟨.inl herr, hr, nofun, nofun⟩

theorem EndsMessage.scheduleReads (ts : List (Fin 64)) (herr : d.err = 0) (hsv : d.sv = true)
    (h : EndsMessage visit is d u) :
    EndsMessage visit (ts.map .rdw ++ is) d { u with words := ts.map (fun t => (t, d.W[t.val])) ++ u.words } := by
  induction ts with
  | nil => exact h
  | cons t ts ih => exact ih.read (i := .rdw t) rfl ⟨.inl herr, hsv, nofun, nofun⟩

/-- A visit of the block in `buf`: its schedule words are read after EXPAND, so they are the block's own. -/
theorem EndsMessage.visit_commands (v : BlockVisit) (hd : d.Stage n fin true lpend)
    (h : ∀ e : Device, e.Stage n fin true lpend → EndsMessage visit is e .unused) :
    EndsMessage visit (v.commands ++ is) d (v.use d.buf.toList) := by
  rw [BlockVisit.commands, List.append_assoc]
  refine .blockReads _ hd.err hd.rdy_eq ?_
  rw [BlockVisit.use, scheduleOf_toList]
  cases v.scheduleReads with
  | none => exact h d hd
  | some ts =>
    have hreads := EndsMessage.scheduleReads (d := d.expandBlock) ts hd.err rfl (h _ hd.expandBlock)
    have hexpand := EndsMessage.use (by decide) (Device.accepts_expand hd.err hd.rdy_eq)
      (presents_of_unchanged rfl rfl) hreads
    simpa [BlockUse.preceded, BlockUse.unused] using hexpand

/-- A visit, and the NEXT that empties `buf`. -/
theorem EndsMessage.visit_next (v : BlockVisit) (hd : d.Stage n fin true false)
    (h : ∀ e : Device, e.Stage n fin false false → EndsMessage visit is e .unused) :
    EndsMessage visit (v.commands ++ .next :: is) d (v.use d.buf.toList) :=
  .visit_commands v hd fun e he =>
    .use (by decide) (Device.accepts_next he.err he.rdy_eq)
      (by simp [presents, Device.effect, he.rdy_eq, he.lpend_eq]) (h _ he.release)

/-- The visit of the last block, and the NEXT that ends the message. -/
theorem EndsMessage.visit_last (v : BlockVisit) (hd : d.Stage n true true false) :
    EndsMessage visit (v.commands ++ [.next]) d (v.use d.buf.toList) :=
  .visit_next v hd fun _ he => .done (he.inv.closed_done he.fin_eq he.rdy_eq) he.err

/-- The NEXT that builds the length-only block, and the visit of that block. -/
theorem EndsMessage.next_visit_last (hd : d.Stage n true true true) (hn : 55 < n % 64) :
    EndsMessage visit (.next :: ((visit (n / 64 + 1)).commands ++ [.next])) d .unused := by
  have hidx : d.release.blkIdx.toNat = n / 64 + 1 := by
    rw [hd.release.blkIdx_of_last]
    omega
  have hlast := EndsMessage.visit_last (visit := visit) (visit (n / 64 + 1)) hd.release
  exact .present (by decide) (Device.accepts_next hd.err hd.rdy_eq)
    (by simp [presents, Device.effect, hd.rdy_eq, hd.lpend_eq]) (hidx.symm ▸ hlast)

/-- FINAL, and the one or two blocks after it (R70). -/
theorem EndsMessage.final (hd : d.Stage n false false false) :
    EndsMessage visit
      (.final :: ((visit (n / 64)).commands ++
        .next :: (if n % 64 ≤ 55 then [] else (visit (n / 64 + 1)).commands ++ [.next]))) d .unused := by
  have hclose := hd.closeMessage
  refine .present (by decide)
    (Device.accepts_final hd.err hd.fin_eq hd.rdy_eq (hd.inv.fill_lt_of_not_rdy hd.rdy_eq))
    (by simp [presents, Device.effect, hd.rdy_eq]) ?_
  split_ifs with hroom
  · rw [decide_eq_true hroom] at hclose
    have hidx : d.closeMessage.blkIdx.toNat = n / 64 := by
      rw [hclose.blkIdx_of_last]
      omega
    exact hidx.symm ▸ .visit_last _ hclose
  · rw [decide_eq_false hroom] at hclose
    have hidx : d.closeMessage.blkIdx.toNat = n / 64 := hclose.blkIdx_of_lpend
    exact hidx.symm ▸ .visit_commands _ hclose fun e he => .next_visit_last he (by omega)

/-- The bytes of a message, with a visit of each block they fill. -/
theorem EndsMessage.push_bytes (bs : List Byte) (hd : d.Stage n false false false)
    (hlen : n + bs.length ≤ 2 ^ 61 - 1)
    (h : ∀ e : Device, e.Stage (n + bs.length) false false false → EndsMessage visit is e .unused) :
    EndsMessage visit (pushProgram visit n bs ++ is) d .unused := by
  induction bs generalizing n d with
  | nil => exact h d hd
  | cons b bs ih =>
    have hsum : n + (b :: bs).length = n + 1 + bs.length := by
      rw [List.length_cons]
      omega
    rw [hsum] at hlen h
    have ha := hd.accepts_pushb b (by omega)
    have hpush := hd.pushByte b (by omega)
    have hrest (e : Device) (he : e.Stage (n + 1) false false false) := ih he hlen h
    rw [pushProgram, List.cons_append]
    by_cases hfull : (n + 1) % 64 = 0
    · rw [if_pos hfull, List.append_assoc, List.append_assoc]
      rw [decide_eq_true hfull] at hpush
      have hidx : (d.pushByte b).blkIdx.toNat = n / 64 := hpush.blkIdx_of_filled
      refine .present nofun ha ?_ (hidx.symm ▸ .visit_next _ hpush hrest)
      simpa [presents, Device.effect, hd.rdy_eq] using hpush.rdy_eq
    · rw [if_neg hfull, List.nil_append]
      rw [decide_eq_false hfull] at hpush
      have hquiet : presents (.pushb b) d (d.pushByte b) = false :=
        presents_of_unchanged (hpush.rdy_eq.trans hd.rdy_eq.symm) rfl
      exact .use nofun ha hquiet (hrest _ hpush)

end

/-- After INIT the sequence of R111 ends its message, and visits each block as the host asked. -/
theorem hostProgram_endsMessage (visit : Nat → BlockVisit) {M : List Byte} (hM : M.length ≤ 2 ^ 61 - 1) (d : Device) :
    EndsMessage visit (hostProgram visit M).tail d.clearMessage .unused :=
  .push_bytes M d.clearMessage_stage (by omega) fun _ he => .final (by simpa using he)

/-! ### The bytes that the sequence of R111 pushes (R64) -/

theorem pushedBytes_append (is js : List Instr) : pushedBytes (is ++ js) = pushedBytes is ++ pushedBytes js := by
  induction is with
  | nil => rfl
  | cons i is ih =>
    cases i with
    | pushb b => exact congrArg (b :: ·) ih
    | init | final | expand | next | rdbw | rdw | rdcnt | rdstat => exact ih

theorem pushedBytes_of_reads {is : List Instr} (h : ∀ i ∈ is, isRead i = true) : pushedBytes is = [] := by
  induction is with
  | nil => rfl
  | cons i is ih =>
    obtain ⟨hi, his⟩ := List.forall_mem_cons.1 h
    cases i with
    | pushb b => cases hi
    | init | final | expand | next | rdbw | rdw | rdcnt | rdstat => exact ih his

/-- A visit pushes no byte. -/
theorem BlockVisit.pushedBytes_commands (v : BlockVisit) : pushedBytes v.commands = [] := by
  have hblock : pushedBytes (v.blockReads.map .rdbw) = [] := pushedBytes_of_reads (by simp [isRead])
  rw [BlockVisit.commands, pushedBytes_append, hblock]
  cases v.scheduleReads with
  | none => rfl
  | some ts => exact pushedBytes_of_reads (is := ts.map .rdw) (by simp [isRead])

theorem pushedBytes_pushProgram (visit : Nat → BlockVisit) (n : Nat) (bs : List Byte) :
    pushedBytes (pushProgram visit n bs) = bs := by
  induction bs generalizing n with
  | nil => rfl
  | cons b bs ih =>
    rw [pushProgram, pushedBytes, pushedBytes_append, ih]
    split_ifs
    · rw [pushedBytes_append, BlockVisit.pushedBytes_commands]
      rfl
    · rfl

theorem pushedBytes_hostProgram (visit : Nat → BlockVisit) (M : List Byte) :
    pushedBytes (hostProgram visit M).tail = M := by
  have hsecond : pushedBytes
      (if M.length % 64 ≤ 55 then [] else (visit (M.length / 64 + 1)).commands ++ [.next]) = [] := by
    split_ifs
    · rfl
    · simp [pushedBytes_append, BlockVisit.pushedBytes_commands, pushedBytes]
  simp only [hostProgram, List.tail_cons, pushedBytes_append, pushedBytes_pushProgram,
    BlockVisit.pushedBytes_commands, pushedBytes, hsecond, List.append_nil]

/-! ### The statements of 70_reset_and_hazards.md: clean runs (R111, R116) -/

/-- The sequence of R111 presents the blocks of the padded message, and INIT none. -/
theorem presentations_hostProgram (visit : Nat → BlockVisit) {M : List Byte} (hM : M.length ≤ 2 ^ 61 - 1)
    (s : State) : presentations (hostProgram visit M) s = paddedPresentations M := by
  have hends := hostProgram_endsMessage visit hM s.dev
  obtain ⟨t, hrun, hdone⟩ := hends.runs (s := s.complete .init)
  have hinit : presentations (hostProgram visit M) s =
      presentations (hostProgram visit M).tail (s.complete .init) := by
    rw [hostProgram, presentations_cons_of_accepts _ (accepts_of_runsHalted rfl s.dev)]
    simp [presents, Device.effect]
  have hpadded := everyPaddedBlockPresentedInOrder _ (s.complete .init) t s.dev.clearMessage_inv rfl rfl
    hends.ne_init hrun hdone
  rw [pushedBytes_hostProgram] at hpadded
  exact hinit.trans hpadded

/-- In the result of the sequence of R111 each block has the use of its visit. -/
theorem runResult_hostProgram_visited (visit : Nat → BlockVisit) {M : List Byte} (hM : M.length ≤ 2 ^ 61 - 1)
    (s : State) :
    ∀ b ∈ (runResult ((hostProgram visit M).map encode) s).blocks, b.shown.visited visit = b := by
  have hends := hostProgram_endsMessage visit hM s.dev
  rw [hostProgram, List.map_cons, runResult_cons_of_accepts _ (decode_encode _) (accepts_of_runsHalted rfl s.dev),
    RunResult.preceded_of_not_presents _ _ (by simp [presents, Device.effect])]
  exact (hends.result (s := s.served _ _)).2

/-- Settles O44: the program is followed from its end to its beginning, and its blocks are those it presents. -/
theorem everyMessageHasACleanRun : Obligations.EveryMessageHasACleanRun := by
  intro visit M s _ hM
  have hshown := shown_runResult (hostProgram visit M) (s := s) rfl
  have hpadded := presentations_hostProgram visit hM s
  have hvisited := runResult_hostProgram_visited visit hM s
  refine ⟨?_, hpadded, ?_⟩
  · exact cleanRun_cons_of_accepts (decode_encode .init) (accepts_of_runsHalted rfl s.dev)
      ((hostProgram_endsMessage visit hM s.dev).cleanRun (s := s.served _ _))
  · calc (runResult ((hostProgram visit M).map encode) s).blocks
        = ((runResult ((hostProgram visit M).map encode) s).blocks.map ShownBlock.shown).map
            (Presentation.visited visit) := by
          rw [List.map_map]
          exact ((List.map_congr_left hvisited).trans (List.map_id _)).symm
      _ = (paddedPresentations M).map (Presentation.visited visit) := by rw [hshown, hpadded]
      _ = _ := List.map_map

end Sys2Proof.Machine
